-- ==== Sys2Proof/Word.lean ====
section
/-! DEFINITION. The word types of the UnoSynth tone block, and the plain data that holds an exact frequency. -/

namespace Sys2Proof

/-- One byte of the text stream, 00_scope.md R23. -/
abbrev Byte := BitVec 8

/-- An integer in 0..255 (volumes), 00_scope.md R23. -/
abbrev U8 := BitVec 8

/-- An integer in 0..2^32-1 (times, durations, intervals), 00_scope.md R21 and R23. Subtraction wraps, which
is the `wrap32` difference of 42_channel_state_machine.md R170. -/
abbrev U32 := BitVec 32

/-- The name of a real number that a free constant of Config gives (log 1). -/
inductive FreeReal where
  /-- Note `n` under the FREQ_MAP of that number, 00_scope.md R19. -/
  | mapped (map : Nat) (n : Int)
  /-- Any real number. -/
  | plain (id : Nat)
  deriving DecidableEq, Repr, Inhabited

/-- An exact real frequency in Hz as plain data (00_scope.md R19, R23; log 1): a rational, the real
`440 * 2^((n - 69) / 12)` of note `n` (43_frequency_mapper.md R190), kept as the note's number, or any other real, kept
as its name. -/
inductive Freq where
  | hz (q : Rat)
  | note (n : Int)
  | free (r : FreeReal)
  deriving DecidableEq, Repr, Inhabited

end Sys2Proof
end

