-- ==== Sys2Proof/Machine/Text.lean ====
section
/-! DEFINITION. The text layer of the command encoding (30_encoding.md R81 to R86): the bytes by name, normalisation,
fields, the keyword tokens and the two numeric parsers. -/

namespace Sys2Proof.Text

/-- LF, 00_scope.md R25. -/
def lf : Byte := 0x0A

/-- CR, 00_scope.md R25. -/
def cr : Byte := 0x0D

/-- SP, 00_scope.md R25. -/
def sp : Byte := 0x20

/-- HT, 00_scope.md R25. -/
def ht : Byte := 0x09

/-- `','`, 00_scope.md R25. -/
def comma : Byte := 0x2C

/-- `'+'`, 30_encoding.md R84. -/
def plus : Byte := 0x2B

/-- `'-'`, 30_encoding.md R84. -/
def minus : Byte := 0x2D

/-- `'.'`, 30_encoding.md R85. -/
def dot : Byte := 0x2E

/-- A byte in `'0'..'9'`, 00_scope.md R25. -/
def isDigit (b : Byte) : Bool := decide (0x30 ≤ b.toNat ∧ b.toNat ≤ 0x39)

/-- A byte that `strip` removes at both ends, 30_encoding.md R81. -/
def isStripped (b : Byte) : Bool := b == sp || b == ht || b == cr

/-- A byte that the numeric parsers skip before a number, 30_encoding.md R84. -/
def isBlank (b : Byte) : Bool := b == sp || b == ht

/-- `upper` on one byte, 30_encoding.md R81. -/
def upperByte (b : Byte) : Byte := if 0x61 ≤ b.toNat ∧ b.toNat ≤ 0x7A then b - 0x20 else b

/-- `strip`, 30_encoding.md R81. -/
def strip (l : List Byte) : List Byte :=
  ((l.dropWhile isStripped).reverse.dropWhile isStripped).reverse

/-- `upper(strip(raw))`, 30_encoding.md R81. -/
def normalize (raw : List Byte) : List Byte := (strip raw).map upperByte

/-- The fields of a line, split at every comma, 30_encoding.md R82. -/
def splitFields : List Byte → List (List Byte)
  | [] => [[]]
  | b :: bs =>
    if b = comma then [] :: splitFields bs
    else
      match splitFields bs with
      | [] => [[b]]
      | f :: fs => (b :: f) :: fs

/-- `fld[0]`, the token, 30_encoding.md R82. -/
def token (line : List Byte) : List Byte := (splitFields line).headD []

/-- The token `FREQ`. -/
def kwFreq : List Byte := [0x46, 0x52, 0x45, 0x51]

/-- The token `NOTE`. -/
def kwNote : List Byte := [0x4E, 0x4F, 0x54, 0x45]

/-- The token `CHORD`. -/
def kwChord : List Byte := [0x43, 0x48, 0x4F, 0x52, 0x44]

/-- The token `MONO`. -/
def kwMono : List Byte := [0x4D, 0x4F, 0x4E, 0x4F]

/-- The token `VOLUME`. -/
def kwVolume : List Byte := [0x56, 0x4F, 0x4C, 0x55, 0x4D, 0x45]

/-- The token `STOP`. -/
def kwStop : List Byte := [0x53, 0x54, 0x4F, 0x50]

/-- The token `STATUS`. -/
def kwStatus : List Byte := [0x53, 0x54, 0x41, 0x54, 0x55, 0x53]

/-- The token `TEST`. -/
def kwTest : List Byte := [0x54, 0x45, 0x53, 0x54]

/-- The eight tokens of 30_encoding.md R87. -/
def keywords : List (List Byte) :=
  [kwFreq, kwNote, kwChord, kwMono, kwVolume, kwStop, kwStatus, kwTest]

/-- The line begins with a digit. -/
def startsWithDigit : List Byte → Bool
  | [] => false
  | b :: _ => isDigit b

/-- Exactly one comma and a digit first, 30_encoding.md R96. -/
def legacyShape (line : List Byte) : Bool :=
  (splitFields line).length == 2 && startsWithDigit line

/-- `sat32s`, 00_scope.md R23. -/
def sat32s (x : Int) : Int := min (max x (-2147483648)) 2147483647

/-- `decimal(D)`, most significant digit first, 30_encoding.md R84. -/
def decimal (ds : List Byte) : Nat := ds.foldl (fun a d => 10 * a + (d.toNat - 0x30)) 0

/-- A number's optional sign byte (`true` after `'-'`) and the bytes after it, 30_encoding.md R84. -/
def takeSign : List Byte → Bool × List Byte
  | [] => (false, [])
  | b :: bs => if b = minus then (true, bs) else if b = plus then (false, bs) else (false, b :: bs)

/-- `sign · m`. -/
def applySign (negative : Bool) (m : Nat) : Int := if negative then -(m : Int) else m

/-- `IntParse`, 30_encoding.md R84. -/
def intParse (s : List Byte) : Option Int :=
  let signed := takeSign (s.dropWhile isBlank)
  let ds := signed.2.takeWhile isDigit
  if ds = [] then none else some (sat32s (applySign signed.1 (decimal ds)))

/-- The digits `D2` after a `'.'`, empty without one, 30_encoding.md R85. -/
def fractionDigits : List Byte → List Byte
  | [] => []
  | b :: bs => if b = dot then bs.takeWhile isDigit else []

/-- `FloatParse`, 30_encoding.md R85: `decimal(D1) + decimal(D2) / 10^len(D2)` is the number of the joined digits
over `10^len(D2)`. -/
def floatParse (s : List Byte) : Option Rat :=
  let signed := takeSign (s.dropWhile isBlank)
  let d1 := signed.2.takeWhile isDigit
  let d2 := fractionDigits (signed.2.dropWhile isDigit)
  if d1 = [] ∧ d2 = [] then none
  else some (mkRat (applySign signed.1 (decimal (d1 ++ d2))) (10 ^ d2.length))

/-- Field `i` read as an integer; `none` when it is absent, 30_encoding.md R83. -/
def intField (flds : List (List Byte)) (i : Nat) : Option Int := flds[i]?.bind intParse

/-- Field `i` read as a frequency; `none` when it is absent, 30_encoding.md R83. -/
def floatField (flds : List (List Byte)) (i : Nat) : Option Rat := flds[i]?.bind floatParse

end Sys2Proof.Text
end

