-- ==== Sys2Proof/Syntax.lean ====
section
/-! DEFINITION. The instructions: one constructor per row of spec/opcode_table.json, with the operands that the
decoder reads from the line's fields. `none` is an absent field (30_encoding.md R83). -/

namespace Sys2Proof

/-- One command line, classified and parsed (30_encoding.md R86, R87). -/
inductive Instr where
  /-- `FREQ,f,d[,c[,v]]`, 30_encoding.md R88. -/
  | freq (f : Option Rat) (d c v : Option Int)
  /-- `NOTE,n,d[,c[,v]]`, 30_encoding.md R89. -/
  | note (n d c v : Option Int)
  /-- `CHORD,n1,n2,d`, 30_encoding.md R90. -/
  | chord (n1 n2 d : Option Int)
  /-- `MONO,n,d`, 30_encoding.md R91. -/
  | mono (n d : Option Int)
  /-- `f,d`, 30_encoding.md R96: the frequency is always present. -/
  | legacy (f : Rat) (d : Option Int)
  /-- `VOLUME,v[,c]`, 30_encoding.md R92. -/
  | volume (v c : Option Int)
  /-- `STOP[,c]`, 30_encoding.md R93. -/
  | stop (c : Option Int)
  /-- `STATUS`, 30_encoding.md R94. -/
  | status
  /-- `TEST`, 30_encoding.md R95. -/
  | test
  /-- Any other non-empty line, carried normalised, 30_encoding.md R99. -/
  | unknown (line : List Byte)
  /-- A line that is empty after normalisation, 30_encoding.md R99. -/
  | empty
  deriving DecidableEq, Repr

end Sys2Proof
end

