-- ==== Sys2Proof/WellFormed.lean ====
section
/-! DEFINITION. The instructions that some line encodes: every operand in the range its parser can return
(30_encoding.md R84, R85, R96, R99). -/

namespace Sys2Proof

/-- A value that `IntParse` can return: in the signed 32-bit range, 30_encoding.md R84. -/
def okInt : Option Int → Bool
  | none => true
  | some x => decide (-2147483648 ≤ x ∧ x ≤ 2147483647)

/-- A rational with a finite decimal expansion: its denominator divides a power of ten, 30_encoding.md R85. -/
def okDecimal (q : Rat) : Bool := 10 ^ q.den.log2 % q.den == 0

/-- A value that `FloatParse` can return, 30_encoding.md R85. -/
def okFreq : Option Rat → Bool
  | none => true
  | some q => okDecimal q

/-- A line that 30_encoding.md R86 classifies as UNKNOWN, already normalised, and one line. -/
def okUnknown (line : List Byte) : Bool :=
  line != [] && Text.normalize line == line && !line.contains Text.lf
    && !Text.keywords.contains (Text.token line) && !Text.legacyShape line

/-- The check of one instruction. -/
def Instr.wellFormed : Instr → Bool
  | .freq f d c v => okFreq f && okInt d && okInt c && okInt v
  | .note n d c v => okInt n && okInt d && okInt c && okInt v
  | .chord n1 n2 d => okInt n1 && okInt n2 && okInt d
  | .mono n d => okInt n && okInt d
  | .legacy f d => decide (0 ≤ f) && okDecimal f && okInt d
  | .volume v c => okInt v && okInt c
  | .stop c => okInt c
  | .status => true
  | .test => true
  | .unknown line => okUnknown line
  | .empty => true

/-- Some line encodes `i`. -/
abbrev WellFormed (i : Instr) : Prop := i.wellFormed = true

end Sys2Proof
end

