-- ==== Sys2Proof/Decode.lean ====
section
/-! DEFINITION. The decoder (30_encoding.md R86), total on any bytes, which refuses by name; then the encoder, which
writes a line of a well-formed instruction. -/

namespace Sys2Proof

/-- Why the decoder refuses a line. -/
inductive DecodeError where
  /-- The raw line is longer than LINE_MAX, 30_encoding.md R100: outside the model. -/
  | lineTooLong
  deriving DecidableEq, Repr

/-- A normalised non-empty line, by its token, 30_encoding.md R86, R87. -/
def classifyLine (line : List Byte) : Instr :=
  let flds := Text.splitFields line
  let tok := Text.token line
  let int := Text.intField flds
  if tok = Text.kwFreq then .freq (Text.floatField flds 1) (int 2) (int 3) (int 4)
  else if tok = Text.kwNote then .note (int 1) (int 2) (int 3) (int 4)
  else if tok = Text.kwChord then .chord (int 1) (int 2) (int 3)
  else if tok = Text.kwMono then .mono (int 1) (int 2)
  else if tok = Text.kwVolume then .volume (int 1) (int 2)
  else if tok = Text.kwStop then .stop (int 1)
  else if tok = Text.kwStatus then .status
  else if tok = Text.kwTest then .test
  else if Text.legacyShape line then .legacy ((Text.floatField flds 0).getD 0) (int 1)
  else .unknown line

/-- A raw line, classified exactly once, 30_encoding.md R86. -/
def classify (raw : List Byte) : Instr :=
  let line := Text.normalize raw
  if line = [] then .empty else classifyLine line

/-- The raw line is over LINE_MAX, 30_encoding.md R100. -/
def tooLong (lineMax : Option Nat) (raw : List Byte) : Bool :=
  match lineMax with
  | none => false
  | some m => decide (m < raw.length)

/-- `Decode`, 30_encoding.md R86. -/
def decode (lineMax : Option Nat) (raw : List Byte) : Except DecodeError Instr :=
  if tooLong lineMax raw then .error .lineTooLong else .ok (classify raw)

/-- The bytes of `w`, first byte in the lowest eight bits. -/
def bytesOfWord : Nat → Nat → List Byte
  | 0, _ => []
  | k + 1, w => BitVec.ofNat 8 w :: bytesOfWord k (w / 256)

/-- The line that a table word stands for: its bytes up to the first LF, which ends an instruction
(20_memory.md R63, 30_encoding.md R80; log 16). -/
def lineOfWord (nbits w : Nat) : List Byte :=
  (bytesOfWord ((nbits + 7) / 8) w).takeWhile (fun b => b != Text.lf)

/-- The instruction that the decoder reads from the line whose bytes are the bits of `w`. -/
def decodeTableWord (nbits w : Nat) : Option Instr :=
  match decode none (lineOfWord nbits w) with
  | .ok i => some i
  | .error _ => none

/-! The encoder: the command syntax of 30_encoding.md R88 to R96 and R109, an absent field written empty (log 20). -/

/-- The digit byte of `n < 10`. -/
def digitByte (n : Nat) : Byte := BitVec.ofNat 8 (0x30 + n)

/-- The decimal digits of `n` in front of `acc`; `fuel` bounds their number. -/
def digitsOnto : Nat → Nat → List Byte → List Byte
  | 0, _, acc => acc
  | fuel + 1, n, acc =>
    if n < 10 then digitByte n :: acc else digitsOnto fuel (n / 10) (digitByte (n % 10) :: acc)

/-- `n` in decimal. -/
def natText (n : Nat) : List Byte := digitsOnto (n + 1) n []

/-- The last `k` decimal digits of `n`. -/
def fixedDigits : Nat → Nat → List Byte
  | 0, _ => []
  | k + 1, n => fixedDigits k (n / 10) ++ [digitByte (n % 10)]

/-- The sign of a number's text. -/
def signText (negative : Bool) : List Byte := if negative then [Text.minus] else []

/-- An integer operand; an absent one is empty text. -/
def intText : Option Int → List Byte
  | none => []
  | some x => signText (decide (x < 0)) ++ natText x.natAbs

/-- A rational with a finite decimal expansion, with as many decimals as its denominator needs at most. -/
def ratText (q : Rat) : List Byte :=
  let k := q.den.log2
  let scaled := q.num.natAbs * 10 ^ k / q.den
  signText (decide (q.num < 0)) ++ natText (scaled / 10 ^ k)
    ++ (if k = 0 then [] else Text.dot :: fixedDigits k scaled)

/-- A frequency operand; an absent one is empty text. -/
def freqText : Option Rat → List Byte
  | none => []
  | some q => ratText q

/-- Fields joined by commas, 30_encoding.md R82. -/
def joinFields : List (List Byte) → List Byte
  | [] => []
  | [f] => f
  | f :: fs => f ++ Text.comma :: joinFields fs

/-- A line of instruction `i`, without its LF. -/
def encode : Instr → List Byte
  | .freq f d c v => joinFields [Text.kwFreq, freqText f, intText d, intText c, intText v]
  | .note n d c v => joinFields [Text.kwNote, intText n, intText d, intText c, intText v]
  | .chord n1 n2 d => joinFields [Text.kwChord, intText n1, intText n2, intText d]
  | .mono n d => joinFields [Text.kwMono, intText n, intText d]
  | .legacy f d => joinFields [ratText f, intText d]
  | .volume v c => joinFields [Text.kwVolume, intText v, intText c]
  | .stop c => joinFields [Text.kwStop, intText c]
  | .status => Text.kwStatus
  | .test => Text.kwTest
  | .unknown line => line
  | .empty => []

end Sys2Proof
end

