-- ==== Sys2Proof/Config.lean ====
section
/-! DEFINITION. What one machine fixes and the spec leaves OPEN (00_scope.md R13 to R22), and the free values:
every constant here is opaque, so no proof can see what it is. A free real number comes with what decides its integer
comparisons, and a free FREQ_MAP with its properties P1 to P4, since the spec limits it to those. -/

namespace Sys2Proof

/-- A real number as the integer parts of its multiples, which decide every comparison with a rational (log 1). The
field values here only show that such data exist. -/
structure RealCut where
  /-- The multiple by `a`, rounded down to a natural number. -/
  floorMul (a : Nat) : Nat := 0
  /-- The multiple by `a`, rounded up to a natural number. -/
  ceilMul (a : Nat) : Nat := 0
  /-- One real number has these multiples. -/
  isReal : ∃ x : ℝ, ∀ a : Nat, floorMul a = ⌊(a : ℝ) * x⌋₊ ∧ ceilMul a = ⌈(a : ℝ) * x⌉₊ := by
    exact ⟨0, by simp⟩
  deriving Inhabited

/-- `r` gives the multiples of the real number `x`. -/
abbrev RealCut.Is (r : RealCut) (x : ℝ) : Prop :=
  ∀ a : Nat, r.floorMul a = ⌊(a : ℝ) * x⌋₊ ∧ r.ceilMul a = ⌈(a : ℝ) * x⌉₊

/-- Rounding a rational multiple is rounding it as a real. -/
theorem floor_ceil_cast (a : Nat) (q : Rat) :
    ⌊(a : Rat) * q⌋.toNat = ⌊(a : ℝ) * (q : ℝ)⌋₊ ∧ ⌈(a : Rat) * q⌉.toNat = ⌈(a : ℝ) * (q : ℝ)⌉₊ := by
  have h : (a : ℝ) * (q : ℝ) = (((a : Rat) * q : Rat) : ℝ) := by push_cast; rfl
  rw [h, ← Int.floor_toNat, ← Int.ceil_toNat, Rat.floor_cast, Rat.ceil_cast]
  exact ⟨rfl, rfl⟩

/-- The multiples of a rational number. -/
def RealCut.ofRat (q : Rat) : RealCut where
  floorMul a := ⌊(a : Rat) * q⌋.toNat
  ceilMul a := ⌈(a : Rat) * q⌉.toNat
  isReal := ⟨q, fun a => floor_ceil_cast a q⟩

/-- A FREQ_MAP other than the exact formula, with the properties P1 to P4 of 43_frequency_mapper.md R193 (log 2): P2
within a tolerance of the map's own, 0 for one that doubles exactly. The field values here only show that such a map
exists. -/
structure NoteMap where
  freq (n : Int) : RealCut := RealCut.ofRat (440 * 2 ^ (n - 69))
  /-- How far, relative to the lower note, a note may be from the double of the note twelve below. -/
  tolerance : Rat := 4094
  /-- P1 to P4. -/
  legal : ∃ f : Int → ℝ, (∀ n, (freq n).Is (f n)) ∧ f 69 = 440
    ∧ (∀ n, |f (n + 12) - 2 * f n| ≤ (tolerance : ℝ) * f n) ∧ StrictMono f ∧ ∀ n, 0 < f n := by
    refine ⟨fun n => ((440 * 2 ^ (n - 69) : Rat) : ℝ), fun n a => floor_ceil_cast a _, by norm_num, fun n => ?_,
      fun n m h => ?_, fun n => by positivity⟩
    · have h : (440 : ℝ) * 2 ^ (n + 12 - 69) - 2 * (440 * 2 ^ (n - 69)) = 4094 * (440 * 2 ^ (n - 69)) := by
        rw [show n + 12 - 69 = n - 69 + 12 by ring, zpow_add₀ (by norm_num)]; ring
      push_cast
      rw [h, abs_of_pos (by positivity)]
    · push_cast
      exact mul_lt_mul_of_pos_left (zpow_lt_zpow_right₀ (by norm_num) (by omega)) (by norm_num)
  deriving Inhabited

/-- One entry `(freq_i, dur_i)` of TEST_SWEEP, 00_scope.md R16 (log 5). -/
structure SweepNote where
  freq : Freq
  dur : U32
  deriving DecidableEq, Repr, Inhabited

/-- Which DUTY_SHAPE the machine has, 00_scope.md R17: the default of 44_waveform_generator.md R206, or the shape
that a free value of that number gives (log 6). -/
inductive DutyShape where
  | standard
  | other (id : Nat)
  deriving DecidableEq, Repr, Inhabited

/-- Which TONE_FREQ the machine has, 00_scope.md R18: the default identity, or a free map of that number (log 7). -/
inductive ToneMap where
  | identity
  | other (id : Nat)
  deriving DecidableEq, Repr, Inhabited

/-- Which FREQ_MAP the machine has, 00_scope.md R19: the exact formula, its intended value, or a free map of that number
with the properties of 43_frequency_mapper.md R193 (log 2). -/
inductive FreqMap where
  | exact
  | other (id : Nat)
  deriving DecidableEq, Repr, Inhabited

/-- CLOCK_SAMPLING, 00_scope.md R22 and 42_channel_state_machine.md R161 (log 10). -/
inductive ClockSampling where
  | perPass
  | perRead
  deriving DecidableEq, Repr, Inhabited

/-- One step of an agent, 00_scope.md R5 (log 11). The Tone agents write no state (44_waveform_generator.md R207),
so they have no move here. -/
inductive Move where
  /-- Dispatch runs one pass. -/
  | dispatch
  /-- The Host appends one byte to the receive stream. -/
  | send (b : Byte)
  /-- The Host removes the oldest report event. -/
  | read
  /-- The Clock advances by so many microseconds. -/
  | advance (us : Nat)
  deriving DecidableEq, Repr, Inhabited

/-- The parameters of one machine (log 18). No step writes them. -/
structure Params where
  /-- ATTACK_TIME in ms, 00_scope.md R13. -/
  attackTime : Nat
  /-- RELEASE_TIME in ms, 00_scope.md R14. -/
  releaseTime : Nat
  /-- VOLUME_RESET, 00_scope.md R15. -/
  volumeReset : U8
  /-- TEST_SWEEP, 00_scope.md R16. -/
  testSweep : List SweepNote
  /-- DUTY_SHAPE, 00_scope.md R17. -/
  dutyShape : DutyShape
  /-- TONE_FREQ, 00_scope.md R18. -/
  toneMap : ToneMap
  /-- FREQ_MAP, 00_scope.md R19. -/
  freqMap : FreqMap
  /-- LINE_MAX in bytes, `none` for unbounded, 00_scope.md R20. -/
  lineMax : Option Nat
  /-- RX_CAPACITY in bytes, 00_scope.md R20. -/
  rxCapacity : Nat
  /-- CLOCK_SAMPLING, 00_scope.md R22. -/
  clockSampling : ClockSampling
  deriving DecidableEq, Repr, Inhabited

namespace Config

/-- ATTACK_TIME before its lower bound 1 is applied (log 3). -/
opaque attackTime : Nat

/-- RELEASE_TIME before its lower bound 1 is applied (log 3). -/
opaque releaseTime : Nat

/-- VOLUME_RESET (log 4). -/
opaque volumeReset : U8

/-- TEST_SWEEP before its legality is checked (log 5). -/
opaque testSweep : List SweepNote

/-- Which DUTY_SHAPE (log 6). -/
opaque dutyShape : DutyShape

/-- The smallest volume that drives the pin high, for shape `id`, phase and interval in µs, before the
bounds that Q1 to Q4 set are applied (log 6). -/
opaque dutyThreshold (id phaseUs intervalUs : Nat) : Nat

/-- Which TONE_FREQ (log 7). -/
opaque toneMap : ToneMap

/-- The frequency that the hardware timer of map `id` produces for a requested one (log 7). -/
opaque producedFreq (id : Nat) (requested : Freq) : Freq

/-- Free value: the level of a tone at `us` whose produced frequency `f` is 0 or less, so that
44_waveform_generator.md R207 gives it no half-period (log 7). -/
opaque levelWithoutPeriod (start : Bool) (f : Freq) (us : Nat) : Bool

/-- Which FREQ_MAP (log 2). -/
opaque freqMap : FreqMap

/-- The FREQ_MAP of number `id` (log 2). -/
opaque noteMap (id : Nat) : NoteMap

/-- The real number of name `id` (log 1). -/
opaque freeReal (id : Nat) : RealCut

/-- LINE_MAX (log 8). -/
opaque lineMax : Option Nat

/-- RX_CAPACITY (log 9). -/
opaque rxCapacity : Nat

/-- Free value: how far the Clock advances before the read of draw number `draw`, under PerRead (log 10). -/
opaque clockGap (draw : Nat) : Nat

/-- Free value: what Host and Clock (and Dispatch) do next, drawn at reset and when the agenda is empty (log 11). -/
opaque freeMoves (draw : Nat) : List Move

/-- PIN0, PIN1, the physical identities of the two pins, 00_scope.md R22: no rule reads them (log 15). -/
opaque pinId (channelIndex : Nat) : Nat

end Config
end Sys2Proof
end

