-- ==== Sys2Proof/Machine/Constants.lean ====
section
/-! DEFINITION. The numeric constants that the source fixes (00_scope.md R6 to R12, R21) and the narrowing of exact
numbers to the machine's widths (00_scope.md R23). -/

namespace Sys2Proof.Machine

/-- F_MIN in Hz, 00_scope.md R7. -/
def fMin : Nat := 20

/-- F_MAX in Hz, 00_scope.md R7. -/
def fMax : Nat := 8000

/-- HW_THRESHOLD in Hz, 00_scope.md R8. -/
def hwThreshold : Nat := 1000

/-- HALF_PERIOD_NUM in µs·Hz, 00_scope.md R9. -/
def halfPeriodNum : Nat := 500000

/-- MIN_TOGGLE_US, 00_scope.md R10. -/
def minToggleUs : Nat := 100

/-- VOL_MAX, 00_scope.md R11. -/
def volMax : Nat := 255

/-- The tuning reference in Hz, 00_scope.md R12. -/
def a4Hz : Nat := 440

/-- The MIDI note of the tuning reference, 00_scope.md R12. -/
def a4Note : Int := 69

/-- `wrap32`, 00_scope.md R23. -/
def wrap32 (x : Nat) : U32 := BitVec.ofNat 32 x

/-- `clamp(x, 0, 255)` as a volume, 00_scope.md R11 and R23. -/
def clampVolume (x : Int) : U8 := BitVec.ofNat 8 (min (max x 0) volMax).toNat

end Sys2Proof.Machine
end

