-- ==== Sys2Proof/Machine/Frequency.lean ====
section
/-! DEFINITION. The frequency mapper (43_frequency_mapper.md) and exact arithmetic on frequencies. A note's frequency
`440 * 2^((n - 69) / 12)` is compared with a rational through twelfth powers, which are integers; a free real is
compared through its rounded multiples (logs 1, 2). -/

namespace Sys2Proof.Machine

/-- `FREQ_MAP(n)` of the machine whose map is `m`, 43_frequency_mapper.md R190 and R193: total, not clamped (R191). -/
def freqMap (m : FreqMap) (n : Int) : Freq :=
  match m with
  | .exact => .note n
  | .other id => .free (.mapped id n)

/-- The rounded multiples of a free real. -/
def freeCut : FreeReal → RealCut
  | .mapped id n => (Config.noteMap id).freq n
  | .plain id => Config.freeReal id

/-- `2^(n - 69)` where that is a whole number, else 1. -/
def notePowUp (n : Int) : Nat := 2 ^ (n - a4Note).toNat

/-- `2^(69 - n)` where that is a whole number, else 1. -/
def notePowDown (n : Int) : Nat := 2 ^ (a4Note - n).toNat

/-- `a · f ≤ b`, exactly. -/
def scaledLe (a : Nat) (f : Freq) (b : Nat) : Bool :=
  match f with
  | .hz q => decide ((a : Int) * q.num ≤ (b : Int) * q.den)
  | .note n => decide ((a * a4Hz) ^ 12 * notePowUp n ≤ b ^ 12 * notePowDown n)
  | .free r => decide ((freeCut r).ceilMul a ≤ b)

/-- `b ≤ f` for a positive `b`, exactly. -/
def atLeast (b : Nat) (f : Freq) : Bool :=
  match f with
  | .hz q => decide ((b : Int) * q.den ≤ q.num)
  | .note n => decide (b ^ 12 * notePowDown n ≤ a4Hz ^ 12 * notePowUp n)
  | .free r => decide (b ≤ (freeCut r).floorMul 1)

/-- `0 < f`, exactly. -/
def isPositive (f : Freq) : Bool := !scaledLe 1 f 0

/-- A note moved to within 512 semitones of A4. FREQ_MAP is monotone (43_frequency_mapper.md R193) and the notes
there lie below 20 Hz and above 8000 Hz, so a clamp to that range sees no difference; it bounds the integers. -/
def nearNote : Freq → Freq
  | .hz q => .hz q
  | .note n => .note (max (a4Note - 512) (min n (a4Note + 512)))
  | .free r => .free r

/-- One spelling per rational and note: a note a whole number of octaves from A4 is a rational, 43_frequency_mapper.md R190. -/
def canonFreq : Freq → Freq
  | .hz q => .hz q
  | .note n =>
    if (n - a4Note) % 12 = 0 then
      .hz (mkRat (a4Hz * 2 ^ ((n - a4Note) / 12).toNat) (2 ^ ((a4Note - n) / 12).toNat))
    else .note n
  | .free r => .free r

/-- `clamp(f, 20, 8000)`, 42_channel_state_machine.md R165 and 60_exceptions.md R304. -/
def clampFreq (f : Freq) : Freq :=
  if !atLeast fMin (nearNote f) then .hz fMin
  else if !scaledLe 1 (nearNote f) fMax then .hz fMax
  else canonFreq (nearNote f)

/-- `f > 1000`, the mode selection of 44_waveform_generator.md R200. -/
def aboveThreshold (f : Freq) : Bool := !scaledLe 1 f hwThreshold

/-- The greatest number below `acc + 2^k` that meets `p`, for a `p` that holds up to a bound at or above `acc`. -/
def bitSearch (p : Nat → Bool) : Nat → Nat → Nat
  | 0, acc => acc
  | k + 1, acc => bitSearch p k (if p (acc + 2 ^ k) then acc + 2 ^ k else acc)

/-- `floor(m / f)` for a frequency of at least 1 Hz and `m < 2^19`, exactly. -/
def floorDivFreq (m : Nat) (f : Freq) : Nat :=
  match f with
  | .hz q => m * q.den / q.num.toNat
  | .note n => bitSearch (fun k => scaledLe k (.note n) m) 19 0
  | .free r => bitSearch (fun k => scaledLe k (.free r) m) 19 0

/-- `Interval(f)` in µs, 44_waveform_generator.md R203. -/
def toggleInterval (f : Freq) : U32 := wrap32 (max minToggleUs (floorDivFreq halfPeriodNum f))

end Sys2Proof.Machine
end

