-- ==== Sys2Proof/Machine/Parameters.lean ====
section
/-! DEFINITION. What the spec requires of the OPEN parameters (00_scope.md R13, R14, R16), and the parameters of the
machine after reset: the free constants of Config brought into those bounds. -/

namespace Sys2Proof.Machine

/-- A legal duration of a note, 10_state.md R35. -/
def durationOk (d : U32) : Bool := decide (1 ≤ d.toNat ∧ d.toNat ≤ 2147483647)

/-- A legal TEST_SWEEP, 00_scope.md R16: its smallest frequency is 20 and its largest 8000, each in the spelling that
`clampFreq` keeps, and every duration is legal (log 5). -/
def sweepOk (sweep : List SweepNote) : Bool :=
  sweep.all (fun n => clampFreq n.freq == n.freq && durationOk n.dur)
    && sweep.any (fun n => n.freq == .hz fMin) && sweep.any (fun n => n.freq == .hz fMax)

/-- The shortest legal sweep, which stands in where the free list is no legal sweep. -/
def shortestSweep : List SweepNote := [⟨.hz fMin, 1⟩, ⟨.hz fMax, 1⟩]

/-- The bounds of 00_scope.md R13, R14 and R16. -/
def paramsOk (p : Params) : Bool :=
  decide (1 ≤ p.attackTime) && decide (1 ≤ p.releaseTime) && sweepOk p.testSweep

/-- The parameters after reset (logs 2 to 10). -/
def resetParams : Params where
  attackTime := max 1 Config.attackTime
  releaseTime := max 1 Config.releaseTime
  volumeReset := Config.volumeReset
  testSweep := if sweepOk Config.testSweep then Config.testSweep else shortestSweep
  dutyShape := Config.dutyShape
  toneMap := Config.toneMap
  freqMap := Config.freqMap
  lineMax := Config.lineMax
  rxCapacity := Config.rxCapacity
  clockSampling := .perPass

end Sys2Proof.Machine
end

