-- ==== Sys2Proof/Machine/State.lean ====
section
/-! DEFINITION. The state of the block (10_state.md), as plain data, and its value after reset
(70_reset_and_hazards.md R350). -/

namespace Sys2Proof.Machine

/-- The channel index: 0 is left, 1 is right, 00_scope.md R6. -/
inductive Chan where
  | left
  | right
  deriving DecidableEq, Repr

/-- The envelope states, 10_state.md R38. -/
inductive Envelope where
  | idle
  | attack
  | sustain
  | release
  deriving DecidableEq, Repr

/-- The generator modes, 10_state.md R41. -/
inductive GeneratorMode where
  | off
  | softwareToggle
  | hardwareTone
  deriving DecidableEq, Repr

/-- The drive of an output pin, 10_state.md R49. -/
inductive PinDrive where
  | level (high : Bool)
  | toneWave (f : Freq)
  deriving DecidableEq, Repr

/-- The phase of the dispatch loop between two steps, 10_state.md R52 (log 14). -/
inductive Phase where
  | betweenPasses
  deriving DecidableEq, Repr

/-- One Channel record, 10_state.md R32 to R45. -/
structure Channel where
  isPlaying : Bool
  frequency : Freq
  noteStartTime : U32
  noteDuration : U32
  volumeTarget : U8
  volumeChannelDefault : U8
  envelope : Envelope
  releaseStartTime : U32
  releaseStartVolume : U8
  generatorMode : GeneratorMode
  toggleIntervalMicros : U32
  lastToggleTime : U32
  pinLevel : Bool
  appliedVolume : U8
  deriving DecidableEq, Repr

/-- One hardware tone generator, 10_state.md R50. -/
structure ToneGen where
  enabled : Bool
  freq : Freq
  deriving DecidableEq, Repr

/-- One value per channel index, 00_scope.md R6. -/
structure PerChan (α : Type) where
  left : α
  right : α
  deriving DecidableEq, Repr

/-- What a channel does, as STATUS reports it, 46_status_reporter.md R250. -/
inductive Activity where
  | idle
  | playing (frequency : Freq) (remaining : Int)
  deriving DecidableEq, Repr

/-- `ChanStatus`, 46_status_reporter.md R250. -/
structure ChanStatus where
  name : String
  volumeDefault : U8
  activity : Activity
  deriving DecidableEq, Repr

/-- The report events, 46_status_reporter.md R253. -/
inductive Report where
  | banner
  | echo (c : Chan) (f : Freq) (d : U32) (v : U8)
  | volumeAck (targets : List Chan) (v : U8)
  | stopAck (targets : List Chan)
  | status (left right : ChanStatus)
  | testStart
  | testEnd (completed : Bool)
  | unknown (line : List Byte)
  deriving DecidableEq, Repr

/-- The state of the block and of the agents around it. -/
structure State where
  /-- The Channel records `ch[c]`, 10_state.md R32 to R45. -/
  ch : PerChan Channel
  /-- The output pins `pin[c]`, 10_state.md R49. -/
  pin : PerChan PinDrive
  /-- The tone generators `tone[c]`, 10_state.md R50. -/
  tone : PerChan ToneGen
  /-- The Clock's `T` in µs, 10_state.md R51. -/
  time : Nat
  /-- 10_state.md R52. -/
  phase : Phase
  /-- The receive stream, oldest byte first, 10_state.md R53. -/
  rx : List Byte
  /-- The transmit stream, oldest event first, 10_state.md R54. -/
  tx : List Report
  /-- The sweep runs, 10_state.md R55. -/
  sweepActive : Bool
  /-- The next entry of the sweep, 10_state.md R55. -/
  sweepIndex : Nat
  /-- An input outside the model was met, 10_state.md R56. -/
  refused : Bool
  /-- The model's own: the parameters of this machine (log 18). -/
  par : Params
  /-- The model's own: the coming moves of the agents, first one first (log 11). -/
  agenda : List Move
  /-- The model's own: how many free values have been drawn (log 11). -/
  draws : Nat
  deriving DecidableEq, Repr

/-- The machine never stops with a fault: "No fatal errors are defined; the system never halts itself"
(60_exceptions.md R300), so there is no reason to name (log 19). -/
inductive Fault where
  deriving DecidableEq, Repr

/-- Why a step has no meaning. -/
inductive Refusal where
  /-- Raised by the dispatch for an instruction that has no meaning yet; safe. -/
  | notModelled (mnemonic : String)
  /-- Raised by a Dispatch step after a line over LINE_MAX was met (00_scope.md R24, 60_exceptions.md R308): Dispatch
  has no further step; safe. -/
  | lineTooLong
  /-- Raised by a Host move that would exceed RX_CAPACITY (70_reset_and_hazards.md R365): the Host broke its duty; safe. -/
  | rxOverflow
  deriving DecidableEq, Repr

/-- A channel after reset, 70_reset_and_hazards.md R350; the values the spec leaves unspecified are 0 (log 12). -/
def resetChannel : Channel where
  isPlaying := false
  frequency := .hz 0
  noteStartTime := 0
  noteDuration := 0
  volumeTarget := 0
  volumeChannelDefault := resetParams.volumeReset
  envelope := .idle
  releaseStartTime := 0
  releaseStartVolume := 0
  generatorMode := .off
  toggleIntervalMicros := 0
  lastToggleTime := 0
  pinLevel := false
  appliedVolume := 0

/-- The state after reset, 70_reset_and_hazards.md R350, R351. The agents' first moves are a free draw like any later
ones, so that the Host may have sent lines before the first pass (70_reset_and_hazards.md R352; log 11). -/
def State.reset : State where
  ch := ⟨resetChannel, resetChannel⟩
  pin := ⟨.level false, .level false⟩
  tone := ⟨⟨false, .hz 0⟩, ⟨false, .hz 0⟩⟩
  time := 0
  phase := .betweenPasses
  rx := []
  tx := [.banner]
  sweepActive := false
  sweepIndex := 0
  refused := false
  par := resetParams
  agenda := Config.freeMoves 0
  draws := 1

end Sys2Proof.Machine
end

