-- ==== Sys2Proof/Machine/Ops.lean ====
section
/-! DEFINITION. The named operations over the state (00_scope.md R24): channel records, pins, tone generators, the
clock and the two streams. There is no addressable memory (20_memory.md R60) and no trap to take (60_exceptions.md
R300, R312). -/

namespace Sys2Proof.Machine

/-- The value of channel `c`. -/
def PerChan.get {α : Type} (p : PerChan α) : Chan → α
  | .left => p.left
  | .right => p.right

/-- The values with that of channel `c` replaced. -/
def PerChan.set {α : Type} (p : PerChan α) (c : Chan) (a : α) : PerChan α :=
  match c with
  | .left => { p with left := a }
  | .right => { p with right := a }

/-- `ch[c]`. -/
def chanAt (s : State) (c : Chan) : Channel := s.ch.get c

/-- Writes fields of `ch[c]`, all in one change `f` of the record. -/
def setChan (c : Chan) (f : Channel → Channel) (s : State) : State :=
  { s with ch := s.ch.set c (f (s.ch.get c)) }

/-- `pin[c] <- d`, 20_memory.md R65. -/
def setPin (c : Chan) (d : PinDrive) (s : State) : State := { s with pin := s.pin.set c d }

/-- Writes `tone[c]`. -/
def setTone (c : Chan) (t : ToneGen) (s : State) : State := { s with tone := s.tone.set c t }

/-- `emit r`, 20_memory.md R64. -/
def emit (r : Report) (s : State) : State := { s with tx := s.tx ++ [r] }

/-- Writes the sweep state, 10_state.md R55. -/
def setSweep (active : Bool) (index : Nat) (s : State) : State :=
  { s with sweepActive := active, sweepIndex := index }

/-- `nowMs`, 10_state.md R51: `sMs` when it is the pass's sample. -/
def nowMs (s : State) : U32 := wrap32 (s.time / 1000)

/-- `nowUs`, 10_state.md R51: `sUs` when it is the pass's sample. -/
def nowUs (s : State) : U32 := wrap32 s.time

/-- How far the Clock advances before a read of it in a pass, 42_channel_state_machine.md R161: not at all under
PerPass, a free amount under PerRead (log 10). -/
def clockGapBefore (s : State) : Nat :=
  match s.par.clockSampling with
  | .perPass => 0
  | .perRead => Config.clockGap s.draws

/-- How many free values a read of the clock draws. -/
def clockDraws (s : State) : Nat :=
  match s.par.clockSampling with
  | .perPass => 0
  | .perRead => 1

/-- Comes before every read of `sMs` or `sUs` in a pass, 42_channel_state_machine.md R161. -/
def readClock (s : State) : State :=
  { s with time := s.time + clockGapBefore s, draws := s.draws + clockDraws s }

/-- `tone_on(c, f)`, 44_waveform_generator.md R201. -/
def toneOn (c : Chan) (f : Freq) (s : State) : State :=
  setPin c (.toneWave f) (setTone c ⟨true, f⟩ s)

/-- `tone_off(c)`, 10_state.md R50: the frequency stays. -/
def toneOff (c : Chan) (s : State) : State := setTone c { s.tone.get c with enabled := false } s

/-- `RxTakeLine()`, 20_memory.md R63: the bytes before the first LF, and the stream after it. -/
def takeLine : List Byte → Option (List Byte × List Byte)
  | [] => none
  | b :: bs =>
    if b = Text.lf then some ([], bs)
    else
      match takeLine bs with
      | none => none
      | some (line, rest) => some (b :: line, rest)

end Sys2Proof.Machine
end

