-- ==== Sys2Proof/Machine/Operands.lean ====
section
/-! DEFINITION. Every operand form (30_encoding.md R103 to R107, R92): what a parsed, possibly absent, field names. -/

namespace Sys2Proof.Machine

/-- A channel number, 30_encoding.md R103; `none` when it is out of range. -/
def chanOfInt (c : Int) : Option Chan :=
  if c = 0 then some .left else if c = 1 then some .right else none

/-- The channel operand of FREQ and NOTE: absent gives channel 0, 30_encoding.md R103. -/
def playChan (c : Option Int) : Option Chan := chanOfInt (c.getD 0)

/-- The channel operand of VOLUME and STOP: absent gives both, 30_encoding.md R103; `none` when it is out of range. -/
def targetChans : Option Int → Option (List Chan)
  | none => some [.left, .right]
  | some c => (chanOfInt c).map (fun ch => [ch])

/-- The volume operand of a play command on channel `c`, 30_encoding.md R104. -/
def playVolume (s : State) (c : Chan) : Option Int → U8
  | none => (chanAt s c).volumeChannelDefault
  | some v => clampVolume v

/-- The level operand of VOLUME, 30_encoding.md R92. -/
def volumeLevel (v : Option Int) : U8 := clampVolume (v.getD 0)

/-- The frequency operand, not clamped, 30_encoding.md R105. -/
def freqOperand (f : Option Rat) : Freq := .hz (f.getD 0)

/-- The note operand, mapped by the machine's FREQ_MAP, 30_encoding.md R107 and 43_frequency_mapper.md R190. -/
def noteOperand (s : State) (n : Option Int) : Freq := freqMap s.par.freqMap (n.getD 0)

/-- The duration operand in ms, 30_encoding.md R106; `none` when it is not positive, so that the command is silent
(60_exceptions.md R306). A decoded duration is below 2^31 and is not narrowed (log 17). -/
def playDuration (d : Option Int) : Option U32 :=
  if 1 ≤ d.getD 0 then some (wrap32 (d.getD 0).toNat) else none

end Sys2Proof.Machine
end

