-- ==== Sys2Proof/Machine/Flags.lean ====
section
/-! DEFINITION. The status conditions of a channel. The block's only flags are `isPlaying`, `envelope` and
`generatorMode` (10_state.md R32); these are the comparisons that decide how they change. -/

namespace Sys2Proof.Machine

/-- `Elapsed(c)` in ms, 42_channel_state_machine.md R170: a `wrap32` difference. -/
def elapsed (s : State) (c : Chan) : U32 := nowMs s - (chanAt s c).noteStartTime

/-- The note has expired, 42_channel_state_machine.md R167. -/
def expired (s : State) (c : Chan) : Bool :=
  decide ((chanAt s c).noteDuration.toNat ≤ (elapsed s c).toNat)

/-- The note enters Release unless it has expired, 42_channel_state_machine.md R168. The subtraction stops at 0, as
`max(0, noteDuration - RELEASE_TIME)` does. -/
def releaseDue (s : State) (c : Chan) : Bool :=
  ((chanAt s c).envelope == .attack || (chanAt s c).envelope == .sustain)
    && decide ((chanAt s c).noteDuration.toNat - s.par.releaseTime ≤ (elapsed s c).toNat)

/-- The note leaves Attack for Sustain unless it expires or enters Release, 42_channel_state_machine.md R169. -/
def sustainDue (s : State) (c : Chan) : Bool :=
  (chanAt s c).envelope == .attack && decide (s.par.attackTime ≤ (elapsed s c).toNat)

/-- The half-period has elapsed, 44_waveform_generator.md R204. -/
def toggleDue (s : State) (c : Chan) : Bool :=
  decide ((chanAt s c).toggleIntervalMicros.toNat ≤ (nowUs s - (chanAt s c).lastToggleTime).toNat)

end Sys2Proof.Machine
end

