-- ==== Sys2Proof/Machine/Status.lean ====
section
/-! DEFINITION. The status reporter (46_status_reporter.md). -/

namespace Sys2Proof.Machine

/-- The channel's name, 46_status_reporter.md R250. -/
def chanName : Chan → String
  | .left => "Left"
  | .right => "Right"

/-- `Remaining(c)` over the integers, 46_status_reporter.md R251. -/
def remaining (s : State) (c : Chan) : Int :=
  ((chanAt s c).noteDuration.toNat : Int) - ((elapsed s c).toNat : Int)

/-- `ChanStatus(c)`, 46_status_reporter.md R250. -/
def chanStatus (s : State) (c : Chan) : ChanStatus where
  name := chanName c
  volumeDefault := (chanAt s c).volumeChannelDefault
  activity :=
    if (chanAt s c).isPlaying then .playing (chanAt s c).frequency (remaining s c) else .idle

/-- The clock read of `ChanStatus(c)`, which only a playing channel makes, 46_status_reporter.md R250, R251. -/
def readForStatus (c : Chan) (s : State) : State :=
  if (chanAt s c).isPlaying then readClock s else s

end Sys2Proof.Machine
end

