-- ==== Sys2Proof/Machine/Envelope.lean ====
section
/-! DEFINITION. The envelope scheduler (45_envelope_scheduler.md). -/

namespace Sys2Proof.Machine

/-- `AttackRamp`, 45_envelope_scheduler.md R232, for `e` below `attackTime`. -/
def attackRamp (attackTime : Nat) (target : U8) (e : Nat) : U8 :=
  BitVec.ofNat 8 (target.toNat * e / attackTime)

/-- `ReleaseRamp`, 45_envelope_scheduler.md R231. -/
def releaseRamp (releaseTime : Nat) (start : U8) (er : Nat) : U8 :=
  if releaseTime ≤ er then 0 else BitVec.ofNat 8 (start.toNat * (releaseTime - er) / releaseTime)

/-- `Env(c)`, 45_envelope_scheduler.md R230. -/
def envelopeOutput (s : State) (c : Chan) : U8 :=
  if (chanAt s c).envelope = .release then
    releaseRamp s.par.releaseTime (chanAt s c).releaseStartVolume
      (nowMs s - (chanAt s c).releaseStartTime).toNat
  else if (elapsed s c).toNat < s.par.attackTime then
    attackRamp s.par.attackTime (chanAt s c).volumeTarget (elapsed s c).toNat
  else (chanAt s c).volumeTarget

/-- `EnterRelease(c)`, 42_channel_state_machine.md R168. -/
def enterRelease (c : Chan) (s : State) : State :=
  let s := readClock s
  setChan c (fun k => { k with
    envelope := .release, releaseStartTime := nowMs s, releaseStartVolume := k.appliedVolume }) s

end Sys2Proof.Machine
end

