-- ==== Sys2Proof/Machine/Generator.lean ====
section
/-! DEFINITION. The waveform generator (44_waveform_generator.md): mode selection, the software oscillator, the stop
contract, and the wave of a hardware tone as an observation. -/

namespace Sys2Proof.Machine

/-- The smallest volume at which shape `id` drives the pin high: the free threshold within the bounds of
44_waveform_generator.md R206, at least 1 by Q1 and at most 255 by Q3 while the phase is below the interval (log 6). -/
def dutyThreshold (id phaseUs intervalUs : Nat) : Nat :=
  if phaseUs < intervalUs then min volMax (max 1 (Config.dutyThreshold id phaseUs intervalUs))
  else max 1 (Config.dutyThreshold id phaseUs intervalUs)

/-- `DutyShape(vol, level, phaseUs, intervalUs)`, 44_waveform_generator.md R206. -/
def dutyLevel (shape : DutyShape) (volume : U8) (level : Bool) (phaseUs intervalUs : Nat) : Bool :=
  match shape with
  | .standard => level && decide (volMax * phaseUs < volume.toNat * intervalUs)
  | .other id => level && decide (dutyThreshold id phaseUs intervalUs ≤ volume.toNat)

/-- `SwStart(c, fc)`, 44_waveform_generator.md R202. -/
def swStart (c : Chan) (fc : Freq) (s : State) : State :=
  let s := readClock s
  setPin c (.level false) (setChan c (fun k => { k with
    toggleIntervalMicros := toggleInterval fc, lastToggleTime := nowUs s, pinLevel := false }) s)

/-- `GenStart(c, fc)`, 44_waveform_generator.md R200. -/
def genStart (c : Chan) (fc : Freq) (s : State) : State :=
  if aboveThreshold fc then
    toneOn c fc (setChan c (fun k => { k with generatorMode := .hardwareTone }) s)
  else swStart c fc (setChan c (fun k => { k with generatorMode := .softwareToggle }) s)

/-- `GenStop(c)`, 44_waveform_generator.md R209. -/
def genStop (c : Chan) (s : State) : State := setPin c (.level false) (toneOff c s)

/-- The toggle of 44_waveform_generator.md R204, when the check before it held. -/
def swToggle (c : Chan) (s : State) : State :=
  let s := readClock s
  setChan c (fun k => { k with pinLevel := !k.pinLevel, lastToggleTime := nowUs s }) s

/-- `SwOutput(c)`, 44_waveform_generator.md R205. -/
def swOutput (c : Chan) (s : State) : State :=
  let s := readClock s
  let k := chanAt s c
  setPin c (.level (dutyLevel s.par.dutyShape k.appliedVolume k.pinLevel
    (nowUs s - k.lastToggleTime).toNat k.toggleIntervalMicros.toNat)) s

/-- `SwAdvance(c)`, 44_waveform_generator.md R204. -/
def swAdvance (c : Chan) (s : State) : State :=
  let s := readClock s
  swOutput c (if toggleDue s c then swToggle c s else s)

/-! The Tone agents, as an observation: they write no field of the state (44_waveform_generator.md R207). -/

/-- `TONE_FREQ(f)`, 00_scope.md R18. -/
def producedFreq (m : ToneMap) (f : Freq) : Freq :=
  match m with
  | .identity => f
  | .other id => Config.producedFreq id f

/-- How many half-periods of `500000 / f` µs have passed `us` µs after `tone_on`, exactly, for a positive `f`. -/
def halfPeriods (f : Freq) (us : Nat) : Nat :=
  match f with
  | .hz q => us * q.num.toNat / (halfPeriodNum * q.den)
  | .note n =>
    bitSearch
      (fun k => decide ((k * halfPeriodNum) ^ 12 * notePowDown n ≤ (us * a4Hz) ^ 12 * notePowUp n))
      (us.log2 + n.toNat / 12 + 2) 0
  | .free r => (freeCut r).floorMul us / halfPeriodNum

/-- The level of a tone wave of the produced frequency `f`, `us` µs after `tone_on`, for the free starting level
`start`, 44_waveform_generator.md R207. DESIGN CHOICE (log 7): the wave begins with a whole half-period, and where `f` is 0
or less, which 00_scope.md R18 does not rule out of TONE_FREQ and R207 gives no half-period, the level is a free value. -/
def toneLevel (start : Bool) (f : Freq) (us : Nat) : Bool :=
  if isPositive f then start ^^ decide (halfPeriods f us % 2 = 1) else Config.levelWithoutPeriod start f us

/-- The logic level on pin `c`, `us` µs after its drive was written: the drive's own level, or the tone agent's. -/
def pinLevelAt (s : State) (c : Chan) (start : Bool) (us : Nat) : Bool :=
  match s.pin.get c with
  | .level high => high
  | .toneWave f => toneLevel start (producedFreq s.par.toneMap f) us

end Sys2Proof.Machine
end

