-- ==== Sys2Proof/Machine/Supervisor.lean ====
section
/-! DEFINITION. The play and stop operations (42_channel_state_machine.md R165, R166) and the TEST sweep
(41_control_commands.md R143 to R145), which every command is built from. -/

namespace Sys2Proof.Machine

/-- `Stop(c)`, 42_channel_state_machine.md R166. -/
def stopChan (c : Chan) (s : State) : State :=
  setChan c (fun k => { k with
    isPlaying := false, envelope := .idle, generatorMode := .off, frequency := .hz 0
    appliedVolume := 0, pinLevel := false }) (genStop c s)

/-- The fields of the Channel record that Play writes before the generator starts, 42_channel_state_machine.md R165. -/
def startNote (fc : Freq) (startMs d : U32) (v : U8) (k : Channel) : Channel :=
  { k with
    isPlaying := true, frequency := fc, noteStartTime := startMs, noteDuration := d, volumeTarget := v
    envelope := .attack, releaseStartTime := 0, releaseStartVolume := 0, appliedVolume := 0 }

/-- `Play(c, f, d, v)`, 42_channel_state_machine.md R165. -/
def playNote (c : Chan) (f : Freq) (d : U32) (v : U8) (s : State) : State :=
  let fc := clampFreq f
  let s := readClock (stopChan c s)
  emit (.echo c fc d v) (genStart c fc (setChan c (startNote fc (nowMs s) d v) s))

/-- `CancelSweep()`, 41_control_commands.md R144. -/
def cancelSweep (s : State) : State :=
  if s.sweepActive then emit (.testEnd false) (setSweep false s.sweepIndex s) else s

/-- `CancelSweep()` when channel 0 is concerned, 41_control_commands.md R144. -/
def cancelSweepFor (c : Chan) (s : State) : State :=
  match c with
  | .left => cancelSweep s
  | .right => s

/-- `SweepAdvance()`, 41_control_commands.md R143. -/
def sweepAdvance (s : State) : State :=
  match s.par.testSweep[s.sweepIndex]? with
  | some n =>
    playNote .left n.freq n.dur (chanAt s .left).volumeChannelDefault
      (setSweep s.sweepActive (s.sweepIndex + 1) s)
  | none => emit (.testEnd true) (setSweep false s.sweepIndex s)

/-- The sweep step of a pass, 41_control_commands.md R145. -/
def sweepStep (s : State) : State :=
  if s.sweepActive && !(chanAt s .left).isPlaying then sweepAdvance s else s

end Sys2Proof.Machine
end

