-- ==== Sys2Proof/Machine/ControlCommands.lean ====
section
/-! DEFINITION. The meanings of the setting, control and diagnostic commands (41_control_commands.md): VOLUME, STOP,
STATUS, TEST, UNKNOWN, EMPTY. -/

namespace Sys2Proof.Machine

/-- Sets the persistent default volume of each target, 41_control_commands.md R140. -/
def setDefaults (targets : List Chan) (v : U8) (s : State) : State :=
  targets.foldl (fun s c => setChan c (fun k => { k with volumeChannelDefault := v }) s) s

/-- Stops each target, 41_control_commands.md R141. -/
def stopTargets (targets : List Chan) (s : State) : State :=
  targets.foldl (fun s c => stopChan c s) s

/-- VOLUME, 41_control_commands.md R140. -/
def execVolume (v c : Option Int) (s : State) : Host.Outcome State Fault Refusal :=
  .next (match targetChans c with
    | none => s
    | some targets => emit (.volumeAck targets (volumeLevel v)) (setDefaults targets (volumeLevel v) s))

/-- STOP, 41_control_commands.md R141. -/
def execStop (c : Option Int) (s : State) : Host.Outcome State Fault Refusal :=
  .next (match targetChans c with
    | none => s
    | some targets =>
      emit (.stopAck targets) (stopTargets targets (if .left ∈ targets then cancelSweep s else s)))

/-- STATUS, 41_control_commands.md R142. -/
def execStatus (s : State) : Host.Outcome State Fault Refusal :=
  let s0 := readForStatus .left s
  let s1 := readForStatus .right s0
  .next (emit (.status (chanStatus s0 .left) (chanStatus s1 .right)) s1)

/-- TEST, 41_control_commands.md R143. -/
def execTest (s : State) : Host.Outcome State Fault Refusal :=
  .next (sweepAdvance (emit .testStart (setSweep true 0 s)))

/-- UNKNOWN, 41_control_commands.md R146. -/
def execUnknown (line : List Byte) (s : State) : Host.Outcome State Fault Refusal :=
  .next (emit (.unknown line) s)

/-- EMPTY, 41_control_commands.md R147. -/
def execEmpty (s : State) : Host.Outcome State Fault Refusal := .next s

end Sys2Proof.Machine
end

