-- ==== Sys2Proof/Machine/PlayCommands.lean ====
section
/-! DEFINITION. The meanings of the play commands (40_play_commands.md): FREQ, NOTE, CHORD, MONO, LEGACY. -/

namespace Sys2Proof.Machine

/-- A single-channel play command after its operands are read, 40_play_commands.md R110: silent where the channel or
the duration is refused, else the sweep is cancelled for channel 0 and the note played. -/
def playOne (f : Freq) (d : Option U32) (c : Option Chan) (v : Option Int) (s : State) : State :=
  match c, d with
  | some c, some d => playNote c f d (playVolume s c v) (cancelSweepFor c s)
  | _, _ => s

/-- A two-channel play command, 40_play_commands.md R112: channel 0 first, each at its own default volume. -/
def playBoth (f0 f1 : Freq) (d : Option U32) (s : State) : State :=
  match d with
  | none => s
  | some d =>
    let s := cancelSweep s
    let s := playNote .left f0 d (chanAt s .left).volumeChannelDefault s
    playNote .right f1 d (chanAt s .right).volumeChannelDefault s

/-- FREQ, 40_play_commands.md R110. -/
def execFreq (f : Option Rat) (d c v : Option Int) (s : State) : Host.Outcome State Fault Refusal :=
  .next (playOne (freqOperand f) (playDuration d) (playChan c) v s)

/-- NOTE, 40_play_commands.md R111. -/
def execNote (n d c v : Option Int) (s : State) : Host.Outcome State Fault Refusal :=
  .next (playOne (noteOperand s n) (playDuration d) (playChan c) v s)

/-- CHORD, 40_play_commands.md R112. -/
def execChord (n1 n2 d : Option Int) (s : State) : Host.Outcome State Fault Refusal :=
  .next (playBoth (noteOperand s n1) (noteOperand s n2) (playDuration d) s)

/-- MONO, 40_play_commands.md R113. -/
def execMono (n d : Option Int) (s : State) : Host.Outcome State Fault Refusal :=
  .next (playBoth (noteOperand s n) (noteOperand s n) (playDuration d) s)

/-- LEGACY, 40_play_commands.md R114: channel 0, its default volume. -/
def execLegacy (f : Rat) (d : Option Int) (s : State) : Host.Outcome State Fault Refusal :=
  .next (playOne (.hz f) (playDuration d) (some .left) none s)

end Sys2Proof.Machine
end

