-- ==== Sys2Proof/Machine/Dispatch.lean ====
section
/-! DEFINITION. The dispatch of 42_channel_state_machine.md R164: one arm per instruction. -/

namespace Sys2Proof.Machine

/-- One command, carried out in the Command phase of a pass. -/
def exec (i : Instr) (s : State) : Host.Outcome State Fault Refusal :=
  match i with
  | .freq f d c v => Sys2Proof.Machine.execFreq f d c v s
  | .note n d c v => Sys2Proof.Machine.execNote n d c v s
  | .chord n1 n2 d => Sys2Proof.Machine.execChord n1 n2 d s
  | .mono n d => Sys2Proof.Machine.execMono n d s
  | .legacy f d => Sys2Proof.Machine.execLegacy f d s
  | .volume v c => Sys2Proof.Machine.execVolume v c s
  | .stop c => Sys2Proof.Machine.execStop c s
  | .status => Sys2Proof.Machine.execStatus s
  | .test => Sys2Proof.Machine.execTest s
  | .unknown line => Sys2Proof.Machine.execUnknown line s
  | .empty => Sys2Proof.Machine.execEmpty s

end Sys2Proof.Machine
end

