-- ==== Sys2Proof/Machine/Phases.lean ====
section
/-! DEFINITION. The Generate and Transition phases of a pass (42_channel_state_machine.md R160, R162, R163). -/

namespace Sys2Proof.Machine

/-- `GenAdvance(c)`, 42_channel_state_machine.md R162. -/
def genAdvance (c : Chan) (s : State) : State :=
  if (chanAt s c).isPlaying then
    let s := readClock s
    let s := setChan c (fun k => { k with appliedVolume := envelopeOutput s c }) s
    match (chanAt s c).generatorMode with
    | .softwareToggle => swAdvance c s
    | .hardwareTone => s
    | .off => s
  else s

/-- `TransitionCheck(c)`, 42_channel_state_machine.md R163: the first check that applies wins. -/
def transitionCheck (c : Chan) (s : State) : State :=
  if (chanAt s c).isPlaying then
    let s := readClock s
    if expired s c then stopChan c s
    else if releaseDue s c then enterRelease c s
    else if sustainDue s c then setChan c (fun k => { k with envelope := .sustain }) s
    else s
  else s

/-- The phases of a pass before its Command phase, 42_channel_state_machine.md R160. -/
def phasesBeforeCommand (s : State) : State :=
  sweepStep (transitionCheck .right (transitionCheck .left (genAdvance .right (genAdvance .left s))))

end Sys2Proof.Machine
end

