-- ==== Sys2Proof/Machine/Pass.lean ====
section
/-! DEFINITION. The Command phase and the whole pass (42_channel_state_machine.md R160, R164), and the steps of the
Host and the Clock. -/

namespace Sys2Proof.Machine

/-- `CommandPhase()`, 42_channel_state_machine.md R164: at most one line. An over-long line sets the `refused` mark
(00_scope.md R24, 60_exceptions.md R308; log 8). -/
def commandPhase (s : State) : Host.Outcome State Fault Refusal :=
  match takeLine s.rx with
  | none => .next s
  | some (line, rest) =>
    match decode s.par.lineMax line with
    | .error .lineTooLong => .next { s with rx := rest, refused := true }
    | .ok i => exec i { s with rx := rest }

/-- `Pass()`, the Dispatch agent's step, 42_channel_state_machine.md R160: there is none once `refused` is set. -/
def dispatchPass (s : State) : Host.Outcome State Fault Refusal :=
  if s.refused then .refused .lineTooLong else commandPhase (phasesBeforeCommand s)

/-- The Host appends one byte, 20_memory.md R63 and 70_reset_and_hazards.md R365 (log 9). -/
def hostSend (b : Byte) (s : State) : Host.Outcome State Fault Refusal :=
  if s.rx.length < s.par.rxCapacity then .next { s with rx := s.rx ++ [b] } else .refused .rxOverflow

/-- The Host removes the oldest report event, 70_reset_and_hazards.md R365; nothing when there is none (log 21). -/
def hostRead (s : State) : State := { s with tx := s.tx.tail }

/-- The Clock advances, 10_state.md R51. -/
def advanceClock (us : Nat) (s : State) : State := { s with time := s.time + us }

/-- One move of an agent, 00_scope.md R5. -/
def agentStep (m : Move) (s : State) : Host.Outcome State Fault Refusal :=
  match m with
  | .dispatch => dispatchPass s
  | .send b => hostSend b s
  | .read => .next (hostRead s)
  | .advance us => .next (advanceClock us s)

/-- An empty agenda is filled with a free draw of moves, behind one Dispatch step (70_reset_and_hazards.md R362,
R365; log 11). -/
def drawAgenda (s : State) : State :=
  { s with agenda := Config.freeMoves s.draws, draws := s.draws + 1 }

/-- The stored line of a table word, ready for the next pass: the Host kept its duty of 70_reset_and_hazards.md R365,
so no LINE_MAX stands in the way (log 16). -/
def placeLine (line : List Byte) (s : State) : State :=
  { s with
    rx := line ++ Text.lf :: s.rx, agenda := .dispatch :: s.agenda, refused := false
    par := { s.par with lineMax := none } }

end Sys2Proof.Machine
end

