-- ==== Sys2Proof/Machine/Step.lean ====
section
/-! DEFINITION. One step of the machine: one step of the agent whose turn it is (00_scope.md R5; log 11). -/

namespace Sys2Proof.Machine

/-- The agent at the head of the agenda moves; with an empty agenda, Dispatch runs a pass after the other agents'
coming moves have been drawn. -/
def step (s : State) : Host.Outcome State Fault Refusal :=
  match s.agenda with
  | [] => dispatchPass (drawAgenda s)
  | m :: rest => agentStep m { s with agenda := rest }

/-- `s` with the instruction of a table word as the line that the next step takes (log 16). -/
def State.withFetchWord (s : State) (nbits w : Nat) : State := placeLine (lineOfWord nbits w) s

end Sys2Proof.Machine
end

