-- ==== Sys2Proof/Safety.lean ====
section
/-! DEFINITION. The terms that claims use: the real number a frequency stands for, the invariant of the machine, a
quiescent state, and the next states of the play, stop and sweep-cancel operations written out field by field from
the spec (not through the model's own operations). -/

namespace Sys2Proof.Machine

/-- The real number that a free constant stands for (log 1). -/
noncomputable def freeReal : FreeReal → ℝ
  | .mapped id n => (Config.noteMap id).legal.choose n
  | .plain id => (Config.freeReal id).isReal.choose

/-- The real number in Hz that a frequency stands for, 43_frequency_mapper.md R190. -/
noncomputable def freqReal : Freq → ℝ
  | .hz q => (q : ℝ)
  | .note n => 440 * (2 : ℝ) ^ (((n : ℝ) - 69) / 12)
  | .free r => freeReal r

/-- How far, relative to the lower note, octaves of the map may miss doubling: P2 of 43_frequency_mapper.md R193, exact
for the exact map (log 2). -/
def octaveTolerance : FreqMap → Rat
  | .exact => 0
  | .other id => (Config.noteMap id).tolerance

/-- CLOCK_SAMPLING = PerPass, 42_channel_state_machine.md R161. -/
abbrev PerPass (s : State) : Prop := s.par.clockSampling = .perPass

/-- A channel that does not play, with its pin and tone generator, 10_state.md R46, R47, R50. -/
abbrev LaneIdle (s : State) (c : Chan) : Prop :=
  (chanAt s c).envelope = .idle ∧ (chanAt s c).generatorMode = .off ∧ (chanAt s c).frequency = .hz 0
    ∧ (chanAt s c).appliedVolume = 0 ∧ (chanAt s c).pinLevel = false
    ∧ s.pin.get c = .level false ∧ (s.tone.get c).enabled = false

/-- The generator of a playing channel in SoftwareToggle, 44_waveform_generator.md R200, R203. -/
abbrev LaneSoftware (s : State) (c : Chan) : Prop :=
  aboveThreshold (chanAt s c).frequency = false
    ∧ (chanAt s c).toggleIntervalMicros = toggleInterval (chanAt s c).frequency
    ∧ (s.pin.get c = .level false ∨ s.pin.get c = .level true) ∧ (s.tone.get c).enabled = false

/-- The generator of a playing channel in HardwareTone, 44_waveform_generator.md R200, R201. -/
abbrev LaneHardware (s : State) (c : Chan) : Prop :=
  aboveThreshold (chanAt s c).frequency = true
    ∧ s.pin.get c = .toneWave (chanAt s c).frequency ∧ s.tone.get c = ⟨true, (chanAt s c).frequency⟩

/-- A channel that plays, 10_state.md R35, R46, R47: its frequency is one that the clamp keeps. -/
abbrev LanePlaying (s : State) (c : Chan) : Prop :=
  (chanAt s c).envelope ≠ .idle ∧ clampFreq (chanAt s c).frequency = (chanAt s c).frequency
    ∧ durationOk (chanAt s c).noteDuration = true
    ∧ (((chanAt s c).generatorMode = .softwareToggle ∧ LaneSoftware s c)
      ∨ ((chanAt s c).generatorMode = .hardwareTone ∧ LaneHardware s c))

/-- The invariant of channel `c`, its pin and its tone generator. -/
abbrev LaneInv (s : State) (c : Chan) : Prop :=
  ((chanAt s c).isPlaying = false → LaneIdle s c) ∧ ((chanAt s c).isPlaying = true → LanePlaying s c)

/-- The invariant of the machine: legal parameters (00_scope.md R13, R14, R16), a receive stream within its capacity
(10_state.md R53), a sweep index within the sweep, and both channels' invariants. -/
abbrev StateInv (s : State) : Prop :=
  paramsOk s.par = true ∧ s.rx.length ≤ s.par.rxCapacity
    ∧ (s.sweepActive = true → s.sweepIndex ≤ s.par.testSweep.length)
    ∧ LaneInv s .left ∧ LaneInv s .right

/-- A quiescent state, 70_reset_and_hazards.md R364. -/
abbrev Quiescent (s : State) : Prop :=
  (chanAt s .left).isPlaying = false ∧ (chanAt s .right).isPlaying = false ∧ s.sweepActive = false
    ∧ Text.lf ∉ s.rx

/-- What a channel, its pin and its tone generator hold, all in one. -/
abbrev SameLane (c : Chan) (s t : State) : Prop :=
  chanAt s c = chanAt t c ∧ s.pin.get c = t.pin.get c ∧ s.tone.get c = t.tone.get c

/-- The Channel record after `Play` of the clamped frequency `fc` with one clock sample per pass,
42_channel_state_machine.md R165, R166 and 44_waveform_generator.md R200 to R202. -/
def playedChannel (s : State) (c : Chan) (fc : Freq) (d : U32) (v : U8) : Channel where
  isPlaying := true
  frequency := fc
  noteStartTime := nowMs s
  noteDuration := d
  volumeTarget := v
  volumeChannelDefault := (chanAt s c).volumeChannelDefault
  envelope := .attack
  releaseStartTime := 0
  releaseStartVolume := 0
  generatorMode := if aboveThreshold fc then .hardwareTone else .softwareToggle
  toggleIntervalMicros :=
    if aboveThreshold fc then (chanAt s c).toggleIntervalMicros else toggleInterval fc
  lastToggleTime := if aboveThreshold fc then (chanAt s c).lastToggleTime else nowUs s
  pinLevel := false
  appliedVolume := 0

/-- The state after `Play(c, f, d, v)` with one clock sample per pass, 42_channel_state_machine.md R165. -/
def playedState (s : State) (c : Chan) (f : Freq) (d : U32) (v : U8) : State :=
  { s with
    ch := s.ch.set c (playedChannel s c (clampFreq f) d v)
    pin := s.pin.set c
      (if aboveThreshold (clampFreq f) then .toneWave (clampFreq f) else .level false)
    tone := s.tone.set c
      (if aboveThreshold (clampFreq f) then ⟨true, clampFreq f⟩ else ⟨false, (s.tone.get c).freq⟩)
    tx := s.tx ++ [.echo c (clampFreq f) d v] }

/-- The Channel record after `Stop`, 42_channel_state_machine.md R166. -/
def stoppedChannel (k : Channel) : Channel where
  isPlaying := false
  frequency := .hz 0
  noteStartTime := k.noteStartTime
  noteDuration := k.noteDuration
  volumeTarget := k.volumeTarget
  volumeChannelDefault := k.volumeChannelDefault
  envelope := .idle
  releaseStartTime := k.releaseStartTime
  releaseStartVolume := k.releaseStartVolume
  generatorMode := .off
  toggleIntervalMicros := k.toggleIntervalMicros
  lastToggleTime := k.lastToggleTime
  pinLevel := false
  appliedVolume := 0

/-- The state after `Stop(c)`, 42_channel_state_machine.md R166 and 44_waveform_generator.md R209. -/
def stoppedState (s : State) (c : Chan) : State :=
  { s with
    ch := s.ch.set c (stoppedChannel (chanAt s c))
    pin := s.pin.set c (.level false)
    tone := s.tone.set c ⟨false, (s.tone.get c).freq⟩ }

/-- The state after `CancelSweep()`, 41_control_commands.md R144. -/
def sweepCancelled (s : State) : State :=
  { s with
    sweepActive := false
    tx := s.tx ++ (if s.sweepActive then [.testEnd false] else []) }

/-- The state in which a play command on channel `c` starts its note: the sweep is cancelled when `c` is channel 0,
41_control_commands.md R144. -/
def beforePlay (s : State) : Chan → State
  | .left => sweepCancelled s
  | .right => s

/-- `Elapsed(c)` as a number, 42_channel_state_machine.md R170: `(sMs - noteStartTime) mod 2^32` over the integers. -/
def elapsedMs (s : State) (c : Chan) : Nat :=
  (((s.time / 1000 : Nat) : Int) - ((chanAt s c).noteStartTime.toNat : Int)) % 4294967296 |>.toNat

/-- `clamp(x, 0, 255)` as a volume, 00_scope.md R11, R23. -/
def volumeOf (x : Int) : U8 := BitVec.ofNat 8 (max 0 (min x 255)).toNat

/-- A channel operand that names channel `k`, 30_encoding.md R103: absent names channel 0. -/
abbrev NamesPlayChan (c : Option Int) (k : Chan) : Prop :=
  (c = none ∧ k = .left) ∨ (c = some 0 ∧ k = .left) ∨ (c = some 1 ∧ k = .right)

/-- `i` is a play command that is carried out on channel `k` for `d` ms, 40_play_commands.md R110 to R114. -/
def CarriesOut (i : Instr) (k : Chan) (d : Int) : Prop :=
  match i with
  | .freq _ d' c _ => d' = some d ∧ 1 ≤ d ∧ NamesPlayChan c k
  | .note _ d' c _ => d' = some d ∧ 1 ≤ d ∧ NamesPlayChan c k
  | .chord _ _ d' => d' = some d ∧ 1 ≤ d
  | .mono _ d' => d' = some d ∧ 1 ≤ d
  | .legacy _ d' => d' = some d ∧ 1 ≤ d ∧ k = .left
  | .volume _ _ => False
  | .stop _ => False
  | .status => False
  | .test => False
  | .unknown _ => False
  | .empty => False

/-- `i` is a play command, 40_play_commands.md. -/
def IsPlayCommand : Instr → Prop
  | .freq _ _ _ _ => True
  | .note _ _ _ _ => True
  | .chord _ _ _ => True
  | .mono _ _ => True
  | .legacy _ _ => True
  | .volume _ _ => False
  | .stop _ => False
  | .status => False
  | .test => False
  | .unknown _ => False
  | .empty => False

/-- The state after `n` steps from `s`, when each of them answers a next state. -/
def stepsFrom : Nat → State → Option State
  | 0, s => some s
  | n + 1, s =>
    match step s with
    | .next t => stepsFrom n t
    | .fault _ => none
    | .refused _ => none

/-- The line of a token and the fields after it, 30_encoding.md R82. -/
def fieldLine (tok : List Byte) (flds : List (List Byte)) : List Byte :=
  tok ++ flds.flatMap (fun f => Text.comma :: f)

/-- The state in which the next Dispatch step runs its pass, when Dispatch is the agent whose turn it is
(00_scope.md R5; log 11); none when another agent moves next. -/
def dispatchState (s : State) : Option State :=
  match s.agenda with
  | [] => some { s with agenda := Config.freeMoves s.draws, draws := s.draws + 1 }
  | .dispatch :: rest => some { s with agenda := rest }
  | .send _ :: _ => none
  | .read :: _ => none
  | .advance _ :: _ => none

end Sys2Proof.Machine
end

