-- ==== Sys2Proof/Certificates/Slice0/Obligations.lean ====
section
/-! DEFINITION. The statements about the UnoSynth tone block that the provers settle, each from the spec's numbered
rules. Statements about the time of an effect take one clock sample per pass (PerPass, the spec's default) as a
premise; the others hold under any sampling. -/

open Sys2Proof Sys2Proof.Machine

/-! ## The encoding (30_encoding.md) -/

/-- Four lines written out byte by byte from 30_encoding.md R88, R93, R96, R99: `FREQ,440.5,300,1`, ` stop,0` and CR,
`440,300`, `HELLO`. -/
def Obligations.WrittenLinesDecode : Prop :=
  decode none [0x46, 0x52, 0x45, 0x51, 0x2C, 0x34, 0x34, 0x30, 0x2E, 0x35, 0x2C, 0x33, 0x30, 0x30, 0x2C, 0x31]
      = .ok (.freq (some (mkRat 881 2)) (some 300) (some 1) none)
    ∧ decode none [0x20, 0x73, 0x74, 0x6F, 0x70, 0x2C, 0x30, 0x0D] = .ok (.stop (some 0))
    ∧ decode none [0x34, 0x34, 0x30, 0x2C, 0x33, 0x30, 0x30] = .ok (.legacy 440 (some 300))
    ∧ decode none [0x48, 0x45, 0x4C, 0x4C, 0x4F] = .ok (.unknown [0x48, 0x45, 0x4C, 0x4C, 0x4F])

/-- Decoding an encoded well-formed instruction gives it back, every operand at every value (30_encoding.md R81 to
R99). The spelling of the encoded line is the model's choice (log 20). -/
def Obligations.DecodeOfEncodeIsTheInstruction : Prop :=
  ∀ i : Instr, WellFormed i → decode none (encode i) = .ok i

/-- What the decoder reads from one line is a well-formed instruction (30_encoding.md R84 to R86, R96, R99). -/
def Obligations.DecodedInstructionIsWellFormed : Prop :=
  ∀ (lineMax : Option Nat) (raw : List Byte) (i : Instr),
    Text.lf ∉ raw → decode lineMax raw = .ok i → WellFormed i

/-- 30_encoding.md R100 and R86: exactly the raw lines over LINE_MAX are refused, and an unbounded LINE_MAX refuses none. -/
def Obligations.DecodeRefusesExactlyOverlongLines : Prop :=
  (∀ (m : Nat) (raw : List Byte), decode (some m) raw = .error .lineTooLong ↔ m < raw.length)
    ∧ ∀ (raw : List Byte), decode none raw = .ok (classify raw)

/-- 30_encoding.md R81: blanks and CR around a line, and the case of its letters, change nothing. -/
def Obligations.BlanksAroundAndCaseDoNotMatter : Prop :=
  ∀ (before raw after : List Byte),
    (∀ b ∈ before, b = Text.sp ∨ b = Text.ht ∨ b = Text.cr) →
    (∀ b ∈ after, b = Text.sp ∨ b = Text.ht ∨ b = Text.cr) →
      classify (before ++ raw ++ after) = classify raw ∧ classify (raw.map Text.upperByte) = classify raw

/-- 30_encoding.md R98: a line's token is keyword `K` exactly when the line is `K` or begins with `K` and a comma. -/
def Obligations.TokenMatchIsExact : Prop :=
  ∀ k ∈ Text.keywords, ∀ line : List Byte,
    Text.token line = k ↔ line = k ∨ ∃ rest, line = k ++ Text.comma :: rest

/-- 30_encoding.md R82, R83, R86 to R97, R99: every line is a token and fields without commas, and a raw line within
LINE_MAX decodes by them: the token selects the command, each operand is read from the field of its place in R87, a field
that the line does not have is absent, and fields beyond those of the format are ignored; without a keyword token the
line is LEGACY exactly when one comma stands in it and a digit first, else UNKNOWN; a blank one is EMPTY. -/
def Obligations.LinesDecodeByTheirTokenAndFields : Prop :=
  (∀ line : List Byte, ∃ tok flds, (∀ f ∈ tok :: flds, Text.comma ∉ f) ∧ line = fieldLine tok flds)
  ∧ ∀ (lineMax : Option Nat) (raw tok : List Byte) (flds : List (List Byte)), (∀ m, lineMax = some m → raw.length ≤ m) →
    (∀ f ∈ tok :: flds, Text.comma ∉ f) → Text.normalize raw = fieldLine tok flds →
      (tok = Text.kwFreq → decode lineMax raw = .ok (.freq (flds[0]?.bind Text.floatParse) (flds[1]?.bind Text.intParse)
        (flds[2]?.bind Text.intParse) (flds[3]?.bind Text.intParse)))
      ∧ (tok = Text.kwNote → decode lineMax raw = .ok (.note (flds[0]?.bind Text.intParse) (flds[1]?.bind Text.intParse)
        (flds[2]?.bind Text.intParse) (flds[3]?.bind Text.intParse)))
      ∧ (tok = Text.kwChord → decode lineMax raw = .ok (.chord (flds[0]?.bind Text.intParse)
        (flds[1]?.bind Text.intParse) (flds[2]?.bind Text.intParse)))
      ∧ (tok = Text.kwMono → decode lineMax raw
        = .ok (.mono (flds[0]?.bind Text.intParse) (flds[1]?.bind Text.intParse)))
      ∧ (tok = Text.kwVolume → decode lineMax raw
        = .ok (.volume (flds[0]?.bind Text.intParse) (flds[1]?.bind Text.intParse)))
      ∧ (tok = Text.kwStop → decode lineMax raw = .ok (.stop (flds[0]?.bind Text.intParse)))
      ∧ (tok = Text.kwStatus → decode lineMax raw = .ok .status)
      ∧ (tok = Text.kwTest → decode lineMax raw = .ok .test)
      ∧ (tok ∉ Text.keywords → Text.normalize raw ≠ [] → decode lineMax raw = .ok
        (if flds.length = 1 ∧ ∃ b, tok.head? = some b ∧ Text.isDigit b = true then
          .legacy ((Text.floatParse tok).getD 0) (flds[0]?.bind Text.intParse)
        else .unknown (Text.normalize raw)))
      ∧ (Text.normalize raw = [] → decode lineMax raw = .ok .empty)

/-- 30_encoding.md R84: `IntParse` on a text split into blanks, an optional sign, a longest digit run and the rest: the
saturated decimal value, the rest ignored, or `none` where the run is empty. -/
def Obligations.IntParseReadsTheSaturatedDecimal : Prop :=
  (∀ (ds : List Byte) (d : Byte), Text.decimal [] = 0
      ∧ Text.decimal (ds ++ [d]) = 10 * Text.decimal ds + (d.toNat - 0x30))
  ∧ ∀ (blanks sign ds rest : List Byte),
    (∀ b ∈ blanks, b = Text.sp ∨ b = Text.ht) → (sign = [] ∨ sign = [Text.plus] ∨ sign = [Text.minus]) →
    (∀ b ∈ ds, Text.isDigit b = true) → (∀ b, rest.head? = some b → Text.isDigit b = false) →
      (ds ≠ [] → Text.intParse (blanks ++ sign ++ ds ++ rest) = some
        (min (max (if sign = [Text.minus] then -(Text.decimal ds : Int) else Text.decimal ds) (-2147483648))
          2147483647))
      ∧ (ds = [] → (sign = [] → ∀ b, rest.head? = some b →
            b ≠ Text.sp ∧ b ≠ Text.ht ∧ b ≠ Text.plus ∧ b ≠ Text.minus) →
          Text.intParse (blanks ++ sign ++ ds ++ rest) = none)

/-- 30_encoding.md R85: `FloatParse` on a text split into blanks, an optional sign, digits, an optional point with
digits, and the rest: the exact decimal value, the rest ignored, or `none` where both runs are empty. -/
def Obligations.FloatParseReadsTheExactDecimal : Prop :=
  ∀ (blanks sign d1 d2 rest : List Byte),
    (∀ b ∈ blanks, b = Text.sp ∨ b = Text.ht) → (sign = [] ∨ sign = [Text.plus] ∨ sign = [Text.minus]) →
    (∀ b ∈ d1, Text.isDigit b = true) → (∀ b ∈ d2, Text.isDigit b = true) →
    (∀ b, rest.head? = some b → Text.isDigit b = false) →
      (d1 ≠ [] ∨ d2 ≠ [] → Text.floatParse (blanks ++ sign ++ d1 ++ Text.dot :: d2 ++ rest) = some
        ((if sign = [Text.minus] then -1 else 1)
          * ((Text.decimal d1 : Rat) + (Text.decimal d2 : Rat) / 10 ^ d2.length)))
      ∧ (d1 ≠ [] → rest.head? ≠ some Text.dot →
          Text.floatParse (blanks ++ sign ++ d1 ++ rest) = some
            ((if sign = [Text.minus] then -1 else 1) * (Text.decimal d1 : Rat)))
      ∧ Text.floatParse (blanks ++ sign ++ Text.dot :: rest) = none
      ∧ (rest.head? ≠ some Text.dot → (sign = [] → ∀ b, rest.head? = some b →
            b ≠ Text.sp ∧ b ≠ Text.ht ∧ b ≠ Text.plus ∧ b ≠ Text.minus) →
          Text.floatParse (blanks ++ sign ++ rest) = none)

/-! ## The play commands (40_play_commands.md) -/

/-- 60_exceptions.md R303: a present channel that is not 0 or 1 makes FREQ, NOTE, VOLUME and STOP have no effect and no
report. -/
def Obligations.OutOfRangeChannelIsSilent : Prop :=
  ∀ (s : State) (f : Option Rat) (n d v : Option Int) (c : Int), c ≠ 0 → c ≠ 1 →
    exec (.freq f d (some c) v) s = .next s ∧ exec (.note n d (some c) v) s = .next s
      ∧ exec (.volume v (some c)) s = .next s ∧ exec (.stop (some c)) s = .next s

/-- 60_exceptions.md R306: a play command whose duration is 0 or less, or absent, has no effect and no report. -/
def Obligations.NonPositiveDurationIsSilent : Prop :=
  ∀ (s : State) (f : Option Rat) (q : Rat) (n n2 c v d : Option Int), (∀ x, d = some x → x ≤ 0) →
    exec (.freq f d c v) s = .next s ∧ exec (.note n d c v) s = .next s ∧ exec (.chord n n2 d) s = .next s
      ∧ exec (.mono n d) s = .next s ∧ exec (.legacy q d) s = .next s

/-- 40_play_commands.md R110 with 42_channel_state_machine.md R165: the whole next state of a FREQ that is carried out. -/
def Obligations.FreqStartsTheNote : Prop :=
  ∀ (s : State) (f : Option Rat) (d : Int) (c v : Option Int) (k : Chan),
    PerPass s → NamesPlayChan c k → 1 ≤ d → d ≤ 2147483647 →
      exec (.freq f (some d) c v) s = .next (playedState (beforePlay s k) k (.hz (f.getD 0))
        (BitVec.ofNat 32 d.toNat) (match v with
          | none => (chanAt s k).volumeChannelDefault
          | some x => volumeOf x))

/-- 40_play_commands.md R111: the whole next state of a NOTE that is carried out; any note number is accepted, mapped by
the machine's FREQ_MAP. -/
def Obligations.NoteStartsTheNote : Prop :=
  ∀ (s : State) (n : Option Int) (d : Int) (c v : Option Int) (k : Chan),
    PerPass s → NamesPlayChan c k → 1 ≤ d → d ≤ 2147483647 →
      exec (.note n (some d) c v) s = .next (playedState (beforePlay s k) k (freqMap s.par.freqMap (n.getD 0))
        (BitVec.ofNat 32 d.toNat) (match v with
          | none => (chanAt s k).volumeChannelDefault
          | some x => volumeOf x))

/-- 40_play_commands.md R112: CHORD cancels the sweep and plays note 1 on channel 0, then note 2 on channel 1, in one
step with one time, each at its channel's default volume. -/
def Obligations.ChordStartsBothNotes : Prop :=
  ∀ (s : State) (n1 n2 : Option Int) (d : Int), PerPass s → 1 ≤ d → d ≤ 2147483647 →
    exec (.chord n1 n2 (some d)) s = .next
      (playedState
        (playedState (sweepCancelled s) .left (freqMap s.par.freqMap (n1.getD 0)) (BitVec.ofNat 32 d.toNat)
          (chanAt s .left).volumeChannelDefault)
        .right (freqMap s.par.freqMap (n2.getD 0)) (BitVec.ofNat 32 d.toNat)
        (chanAt s .right).volumeChannelDefault)

/-- 40_play_commands.md R113: MONO plays the same note on both channels, in one step with one time. -/
def Obligations.MonoStartsTheNoteOnBoth : Prop :=
  ∀ (s : State) (n : Option Int) (d : Int), PerPass s → 1 ≤ d → d ≤ 2147483647 →
    exec (.mono n (some d)) s = .next
      (playedState
        (playedState (sweepCancelled s) .left (freqMap s.par.freqMap (n.getD 0)) (BitVec.ofNat 32 d.toNat)
          (chanAt s .left).volumeChannelDefault)
        .right (freqMap s.par.freqMap (n.getD 0)) (BitVec.ofNat 32 d.toNat)
        (chanAt s .right).volumeChannelDefault)

/-- 40_play_commands.md R114: the whole next state of a legacy line that is carried out, on channel 0; and in every
state, under any sampling, it does what `FREQ,f,d,0` does. -/
def Obligations.LegacyStartsTheNoteOnChannelZero : Prop :=
  (∀ (s : State) (f : Rat) (d : Int), PerPass s → 1 ≤ d → d ≤ 2147483647 →
    exec (.legacy f (some d)) s = .next (playedState (sweepCancelled s) .left (.hz f)
      (BitVec.ofNat 32 d.toNat) (chanAt s .left).volumeChannelDefault))
  ∧ ∀ (s : State) (f : Rat) (d : Option Int),
    exec (.legacy f d) s = exec (.freq (some f) d (some 0) none) s

/-- 40_play_commands.md R115, under any clock sampling: a play command that is carried out leaves its target playing in
Attack for `d` ms from a clock reading of that step, at a frequency in [20, 8000]; one that is not carried out changes
nothing. -/
def Obligations.PlayCommandLeavesItsTargetPlaying : Prop :=
  (∀ (i : Instr) (k : Chan) (d : Int) (s : State), CarriesOut i k d → d ≤ 2147483647 →
    ∃ (t : State) (readAt : Nat), exec i s = .next t ∧ (chanAt t k).isPlaying = true
      ∧ (chanAt t k).envelope = .attack ∧ ((chanAt t k).noteDuration.toNat : Int) = d
      ∧ (chanAt t k).noteStartTime.toNat = readAt / 1000 % 4294967296
      ∧ s.time ≤ readAt ∧ readAt ≤ t.time ∧ (PerPass s → readAt = s.time)
      ∧ 20 ≤ freqReal (chanAt t k).frequency ∧ freqReal (chanAt t k).frequency ≤ 8000)
  ∧ ∀ (i : Instr) (s : State), IsPlayCommand i → (∀ k d, ¬ CarriesOut i k d) → exec i s = .next s

/-! ## The other commands (41_control_commands.md, 46_status_reporter.md) -/

/-- 41_control_commands.md R140: VOLUME sets the default volume of its targets to the clamped level and reports it. -/
def Obligations.VolumeSetsTheDefaults : Prop :=
  (∀ (s : State) (v : Option Int), exec (.volume v none) s = .next { s with
    ch := ⟨{ chanAt s .left with volumeChannelDefault := volumeOf (v.getD 0) },
      { chanAt s .right with volumeChannelDefault := volumeOf (v.getD 0) }⟩
    tx := s.tx ++ [.volumeAck [.left, .right] (volumeOf (v.getD 0))] })
  ∧ (∀ (s : State) (v : Option Int) (c : Int) (k : Chan),
      (c = 0 ∧ k = .left) ∨ (c = 1 ∧ k = .right) → exec (.volume v (some c)) s = .next { s with
        ch := s.ch.set k { chanAt s k with volumeChannelDefault := volumeOf (v.getD 0) }
        tx := s.tx ++ [.volumeAck [k] (volumeOf (v.getD 0))] })
  ∧ ∀ (s : State) (v : Option Int) (c : Int), c ≠ 0 → c ≠ 1 → exec (.volume v (some c)) s = .next s

/-- 41_control_commands.md R141: STOP cancels the sweep when channel 0 is a target, stops its targets and reports them. -/
def Obligations.StopStopsItsTargets : Prop :=
  (∀ s : State, exec (.stop none) s = .next
    { stoppedState (stoppedState (sweepCancelled s) .left) .right with
      tx := (sweepCancelled s).tx ++ [.stopAck [.left, .right]] })
  ∧ (∀ s : State, exec (.stop (some 0)) s = .next
    { stoppedState (sweepCancelled s) .left with tx := (sweepCancelled s).tx ++ [.stopAck [.left]] })
  ∧ (∀ s : State, exec (.stop (some 1)) s = .next
    { stoppedState s .right with tx := s.tx ++ [.stopAck [.right]] })
  ∧ ∀ (s : State) (c : Int), c ≠ 0 → c ≠ 1 → exec (.stop (some c)) s = .next s

/-- 41_control_commands.md R141, "Idempotence": STOP with both channels idle and no sweep changes nothing but the
report. -/
def Obligations.StopOnIdleChannelsOnlyReports : Prop :=
  ∀ s : State, LaneIdle s .left → LaneIdle s .right → (chanAt s .left).isPlaying = false →
    (chanAt s .right).isPlaying = false → s.sweepActive = false →
      exec (.stop none) s = .next { s with tx := s.tx ++ [.stopAck [.left, .right]] }

/-- 41_control_commands.md R141, US §8: `STOP,0` and then `STATUS` reports channel 0 Idle, and neither touches channel 1,
under any clock sampling. -/
def Obligations.StopThenStatusReportsIdle : Prop :=
  ∀ s : State, ∃ (t u : State) (l r : ChanStatus),
    exec (.stop (some 0)) s = .next t ∧ exec .status t = .next u ∧ u.tx = t.tx ++ [.status l r]
      ∧ l.activity = .idle ∧ SameLane .right s t ∧ SameLane .right t u

/-- 41_control_commands.md R142, 46_status_reporter.md R250: STATUS appends one Status report of both channels and
changes nothing else. -/
def Obligations.StatusReportsBothChannels : Prop :=
  ∀ s : State, PerPass s → exec .status s = .next { s with tx := s.tx ++ [.status
    ⟨"Left", (chanAt s .left).volumeChannelDefault,
      if (chanAt s .left).isPlaying then .playing (chanAt s .left).frequency
        (((chanAt s .left).noteDuration.toNat : Int) - elapsedMs s .left) else .idle⟩
    ⟨"Right", (chanAt s .right).volumeChannelDefault,
      if (chanAt s .right).isPlaying then .playing (chanAt s .right).frequency
        (((chanAt s .right).noteDuration.toNat : Int) - elapsedMs s .right) else .idle⟩] }

/-- 46_status_reporter.md R252, under any clock sampling: the reporter writes no channel, pin, tone generator or sweep
state, and one report. -/
def Obligations.StatusWritesNothingButTheReport : Prop :=
  ∀ s : State, ∃ (t : State) (l r : ChanStatus), exec .status s = .next t ∧ t.tx = s.tx ++ [.status l r]
    ∧ t.ch = s.ch ∧ t.pin = s.pin ∧ t.tone = s.tone ∧ t.sweepActive = s.sweepActive
    ∧ t.sweepIndex = s.sweepIndex ∧ t.rx = s.rx ∧ t.refused = s.refused ∧ t.par = s.par

/-- 41_control_commands.md R143: TEST reports its start and plays the first entry of the sweep on channel 0. -/
def Obligations.TestStartsTheSweep : Prop :=
  ∀ (s : State) (n : SweepNote) (rest : List SweepNote), PerPass s → s.par.testSweep = n :: rest →
    exec .test s = .next (playedState
      { s with sweepActive := true, sweepIndex := 1, tx := s.tx ++ [.testStart] }
      .left n.freq n.dur (chanAt s .left).volumeChannelDefault)

/-- 41_control_commands.md R146 and R147: an UNKNOWN line only adds its report; an EMPTY line changes nothing. -/
def Obligations.UnknownOnlyReportsAndEmptyDoesNothing : Prop :=
  ∀ (s : State) (line : List Byte),
    exec (.unknown line) s = .next { s with tx := s.tx ++ [.unknown line] } ∧ exec .empty s = .next s

/-- 41_control_commands.md R140, US §8 "Round-trip": after `VOLUME,v,c` a FREQ, and a NOTE, on channel `c` without a
volume field has the clamped `v` as its sustain target, under any clock sampling. -/
def Obligations.VolumeThenPlayUsesTheLevel : Prop :=
  ∀ (s : State) (v c : Int) (k : Chan) (f : Option Rat) (n : Option Int) (d : Int),
    (c = 0 ∧ k = .left) ∨ (c = 1 ∧ k = .right) → 1 ≤ d →
      ∃ t u w : State, exec (.volume (some v) (some c)) s = .next t
        ∧ exec (.freq f (some d) (some c) none) t = .next u ∧ (chanAt u k).volumeTarget = volumeOf v
        ∧ exec (.note n (some d) (some c) none) t = .next w ∧ (chanAt w k).volumeTarget = volumeOf v

/-! ## What commands leave unchanged (10_state.md R37, R48, R57) -/

/-- 10_state.md R57: what each command leaves unchanged, under any clock sampling. -/
def Obligations.CommandsWriteOnlyTheirState : Prop :=
  ∀ (i : Instr) (s t : State), exec i s = .next t →
    t.phase = s.phase ∧ t.rx = s.rx ∧ t.refused = s.refused ∧ t.par = s.par ∧ t.agenda = s.agenda
      ∧ s.time ≤ t.time ∧ (PerPass s → t.time = s.time ∧ t.draws = s.draws)
      ∧ (∃ events, t.tx = s.tx ++ events)
      ∧ (∀ v c, i = .volume v c → t.pin = s.pin ∧ t.tone = s.tone ∧ t.sweepActive = s.sweepActive
          ∧ t.sweepIndex = s.sweepIndex ∧ t.time = s.time ∧ t.draws = s.draws
          ∧ ∀ k, chanAt t k = { chanAt s k with volumeChannelDefault := (chanAt t k).volumeChannelDefault })
      ∧ (∀ line, i = .unknown line ∨ i = .empty → t = { s with tx := t.tx })

/-- 10_state.md R37: no command but VOLUME, and no phase of a pass, changes a channel's default volume. -/
def Obligations.OnlyVolumeChangesTheDefault : Prop :=
  (∀ (i : Instr) (s t : State) (k : Chan), exec i s = .next t → (∀ v c, i ≠ .volume v c) →
    (chanAt t k).volumeChannelDefault = (chanAt s k).volumeChannelDefault)
  ∧ ∀ (s : State) (k : Chan),
    (chanAt (phasesBeforeCommand s) k).volumeChannelDefault = (chanAt s k).volumeChannelDefault

/-- 10_state.md R48, 20_memory.md R65: a command on one channel leaves the other's record, pin and tone generator as
they were, and a command on channel 1 only leaves the sweep; under any clock sampling. -/
def Obligations.CommandLeavesTheOtherChannel : Prop :=
  ∀ (s t : State) (f : Option Rat) (q : Rat) (n d v : Option Int),
    ((exec (.freq f d (some 0) v) s = .next t ∨ exec (.note n d (some 0) v) s = .next t
        ∨ exec (.volume v (some 0)) s = .next t ∨ exec (.stop (some 0)) s = .next t
        ∨ exec (.legacy q d) s = .next t ∨ exec .test s = .next t) → SameLane .right s t)
    ∧ ((exec (.freq f d (some 1) v) s = .next t ∨ exec (.note n d (some 1) v) s = .next t
        ∨ exec (.volume v (some 1)) s = .next t ∨ exec (.stop (some 1)) s = .next t) →
          SameLane .left s t ∧ t.sweepActive = s.sweepActive ∧ t.sweepIndex = s.sweepIndex)

/-! ## The pass (42_channel_state_machine.md) -/

/-- 42_channel_state_machine.md R160, R164: a Dispatch step whose line decodes to `i` is `i` carried out, the line
taken from the stream, on the state that the phases before it leave: Generate of channel 0, then of channel 1, then the
transition checks of channel 0 and of channel 1, then the sweep step. Whose turn it is follows the model's agenda
(log 11). -/
def Obligations.StepRunsTheDecodedLine : Prop :=
  ∀ (s s0 : State) (line rest : List Byte) (i : Instr), dispatchState s = some s0 → s.refused = false →
    s.rx = line ++ Text.lf :: rest → Text.lf ∉ line → decode s.par.lineMax line = .ok i →
      step s = exec i
        { sweepStep (transitionCheck .right (transitionCheck .left (genAdvance .right (genAdvance .left s0)))) with
          rx := rest }

/-- 42_channel_state_machine.md R160, R164: a Dispatch step without a complete line runs the phases before the command,
in their fixed order, and nothing else. Whose turn it is follows the model's agenda (log 11). -/
def Obligations.StepWithoutALineRunsThePhases : Prop :=
  ∀ s s0 : State, dispatchState s = some s0 → s.refused = false → Text.lf ∉ s.rx →
    step s = .next
      (sweepStep (transitionCheck .right (transitionCheck .left (genAdvance .right (genAdvance .left s0)))))

/-- 60_exceptions.md R308, 30_encoding.md R100, 42_channel_state_machine.md R160: after the phases before the command an
over-long line is taken and sets the `refused` mark, and from then on Dispatch has no step. That its bytes leave the stream is the model's reading (log 8). -/
def Obligations.OverlongLineEndsDispatch : Prop :=
  (∀ (s s0 : State) (line rest : List Byte) (m : Nat), dispatchState s = some s0 → s.refused = false →
    s.rx = line ++ Text.lf :: rest → Text.lf ∉ line → s.par.lineMax = some m → m < line.length →
      step s = .next
        { sweepStep (transitionCheck .right (transitionCheck .left (genAdvance .right (genAdvance .left s0)))) with
          rx := rest, refused := true })
  ∧ ∀ s s0 : State, dispatchState s = some s0 → s.refused = true → step s = .refused .lineTooLong

/-- 70_reset_and_hazards.md R365, 10_state.md R51, R53, R54: what a step of the Host or the Clock changes, and
nothing else; a byte over RX_CAPACITY is refused. The refusal (log 9), the read of an empty stream (log 21) and the
agenda (log 11) are the model's. -/
def Obligations.HostAndClockStepsChangeOnlyTheirState : Prop :=
  ∀ (s : State) (rest : List Move) (b : Byte) (us : Nat),
    (s.agenda = .send b :: rest → s.rx.length < s.par.rxCapacity →
      step s = .next { s with agenda := rest, rx := s.rx ++ [b] })
    ∧ (s.agenda = .send b :: rest → s.par.rxCapacity ≤ s.rx.length → step s = .refused .rxOverflow)
    ∧ (s.agenda = .read :: rest → step s = .next { s with agenda := rest, tx := s.tx.drop 1 })
    ∧ (s.agenda = .advance us :: rest → step s = .next { s with agenda := rest, time := s.time + us })

/-- 20_memory.md R63: `RxTakeLine` gives the bytes before the first LF and removes them with it, and `none` exactly when
there is no LF. -/
def Obligations.TakeLineStopsAtTheFirstLineFeed : Prop :=
  (∀ line rest : List Byte, Text.lf ∉ line → takeLine (line ++ Text.lf :: rest) = some (line, rest))
    ∧ ∀ rx : List Byte, takeLine rx = none ↔ Text.lf ∉ rx

/-- 20_memory.md R67, R63, 70_reset_and_hazards.md R355: a Dispatch step takes the oldest complete line and no more, and
leaves a partial line. -/
def Obligations.DispatchTakesAtMostOneLine : Prop :=
  ∀ s s0 t : State, dispatchState s = some s0 → step s = .next t →
    (Text.lf ∉ s.rx ∧ t.rx = s.rx) ∨ ∃ line, Text.lf ∉ line ∧ s.rx = line ++ Text.lf :: t.rx

/-- 20_memory.md R64, R70: a Dispatch step only appends to the transmit stream. -/
def Obligations.DispatchOnlyAppendsReports : Prop :=
  ∀ s s0 t : State, dispatchState s = some s0 → step s = .next t → ∃ events, t.tx = s.tx ++ events

/-- 70_reset_and_hazards.md R364: from a quiescent state a pass changes nothing. The agenda moves on (log 11). -/
def Obligations.QuiescentPassChangesNothing : Prop :=
  ∀ s s0 : State, dispatchState s = some s0 → s.refused = false → Quiescent s → step s = .next s0

/-- 42_channel_state_machine.md R171: in a step, Sustain is reached only from Attack (or kept), Release only from Attack
or Sustain (or kept); so from Idle only Attack, and from Release only Attack or Idle. -/
def Obligations.EnvelopeMovesOnlyAlongTheTable : Prop :=
  ∀ (s t : State) (c : Chan), step s = .next t →
    ((chanAt t c).envelope = .sustain →
      (chanAt s c).envelope = .attack ∨ (chanAt s c).envelope = .sustain)
    ∧ ((chanAt t c).envelope = .release → (chanAt s c).envelope = .attack
      ∨ (chanAt s c).envelope = .sustain ∨ (chanAt s c).envelope = .release)

/-- 42_channel_state_machine.md R175: after a pass, every channel that plays is within its note's duration. -/
def Obligations.NoNoteOutlivesItsDuration : Prop :=
  ∀ (s s0 t : State) (c : Chan), PerPass s → paramsOk s.par = true → dispatchState s = some s0 →
    step s = .next t → (chanAt t c).isPlaying = true → elapsedMs t c < (chanAt t c).noteDuration.toNat

/-- 42_channel_state_machine.md R163, R167 to R170: the Transition phase of a playing channel, its three checks in their
order; of a channel that does not play, nothing. -/
def Obligations.TransitionFollowsItsPrecedence : Prop :=
  ∀ (s : State) (c : Chan),
    ((chanAt s c).isPlaying = false → transitionCheck c s = s)
    ∧ (PerPass s → (chanAt s c).isPlaying = true → transitionCheck c s =
      if (chanAt s c).noteDuration.toNat ≤ elapsedMs s c then stoppedState s c
      else if ((chanAt s c).envelope = .attack ∨ (chanAt s c).envelope = .sustain)
          ∧ max 0 (((chanAt s c).noteDuration.toNat : Int) - s.par.releaseTime) ≤ elapsedMs s c then
        { s with ch := s.ch.set c { chanAt s c with
            envelope := .release, releaseStartTime := BitVec.ofNat 32 (s.time / 1000)
            releaseStartVolume := (chanAt s c).appliedVolume } }
      else if (chanAt s c).envelope = .attack ∧ s.par.attackTime ≤ elapsedMs s c then
        { s with ch := s.ch.set c { chanAt s c with envelope := .sustain } }
      else s)

/-- 42_channel_state_machine.md R162, 44_waveform_generator.md R204, R205: the Generate phase of a channel in
SoftwareToggle: the envelope's output, at most one toggle, and the pin's level. -/
def Obligations.SoftwareToggleFollowsItsInterval : Prop :=
  ∀ (s : State) (c : Chan) (due : Bool), PerPass s → (chanAt s c).isPlaying = true →
    (chanAt s c).generatorMode = .softwareToggle →
    due = decide ((chanAt s c).toggleIntervalMicros.toNat
      ≤ ((s.time : Int) - (chanAt s c).lastToggleTime.toNat) % 4294967296) →
      genAdvance c s = { s with
        ch := s.ch.set c { chanAt s c with
          appliedVolume := envelopeOutput s c
          pinLevel := if due then !(chanAt s c).pinLevel else (chanAt s c).pinLevel
          lastToggleTime := if due then BitVec.ofNat 32 s.time else (chanAt s c).lastToggleTime }
        pin := s.pin.set c (.level (dutyLevel s.par.dutyShape (envelopeOutput s c)
          (if due then !(chanAt s c).pinLevel else (chanAt s c).pinLevel)
          (if due then 0 else (BitVec.ofNat 32 s.time - (chanAt s c).lastToggleTime).toNat)
          (chanAt s c).toggleIntervalMicros.toNat)) }

/-- 44_waveform_generator.md R208, 42_channel_state_machine.md R162, under any clock sampling: in HardwareTone the
Generate phase writes `appliedVolume` and leaves pin and tone generator; a channel that does not play is left alone. -/
def Obligations.HardwareToneIgnoresTheVolume : Prop :=
  ∀ (s : State) (c : Chan),
    ((chanAt s c).isPlaying = false → genAdvance c s = s)
    ∧ ((chanAt s c).isPlaying = true → (chanAt s c).generatorMode = .hardwareTone →
      (genAdvance c s).pin = s.pin ∧ (genAdvance c s).tone = s.tone
        ∧ (∃ v, (genAdvance c s).ch = s.ch.set c { chanAt s c with appliedVolume := v })
        ∧ (PerPass s → chanAt (genAdvance c s) c = { chanAt s c with appliedVolume := envelopeOutput s c }))

/-- 41_control_commands.md R145, R143: the sweep step does nothing unless the sweep runs and channel 0 does not play;
then it starts the next entry of the sweep on channel 0, or, after the last one, ends the sweep with `TestEnd(true)`. In
the pass in which a sweep note expires, it does so. -/
def Obligations.SweepGoesOnInThePassOfExpiry : Prop :=
  (∀ s : State, (s.sweepActive = false ∨ (chanAt s .left).isPlaying = true → sweepStep s = s)
    ∧ (s.sweepActive = true → (chanAt s .left).isPlaying = false →
      (∀ n, PerPass s → s.par.testSweep[s.sweepIndex]? = some n →
        sweepStep s = playedState { s with sweepIndex := s.sweepIndex + 1 } .left n.freq n.dur
          (chanAt s .left).volumeChannelDefault)
      ∧ (s.par.testSweep[s.sweepIndex]? = none →
        sweepStep s = { s with sweepActive := false, tx := s.tx ++ [.testEnd true] })))
  ∧ ∀ s : State, PerPass s → s.sweepActive = true → (chanAt s .left).isPlaying = true →
    (chanAt s .left).noteDuration.toNat ≤ elapsedMs s .left →
      (∀ n, s.par.testSweep[s.sweepIndex]? = some n →
        (phasesBeforeCommand s).sweepActive = true
          ∧ (phasesBeforeCommand s).sweepIndex = s.sweepIndex + 1
          ∧ (chanAt (phasesBeforeCommand s) .left).isPlaying = true
          ∧ (chanAt (phasesBeforeCommand s) .left).envelope = .attack
          ∧ (chanAt (phasesBeforeCommand s) .left).frequency = clampFreq n.freq
          ∧ (chanAt (phasesBeforeCommand s) .left).noteDuration = n.dur
          ∧ (chanAt (phasesBeforeCommand s) .left).noteStartTime.toNat = s.time / 1000 % 4294967296
          ∧ (chanAt (phasesBeforeCommand s) .left).volumeTarget = (chanAt s .left).volumeChannelDefault
          ∧ (phasesBeforeCommand s).tx = s.tx
            ++ [.echo .left (clampFreq n.freq) n.dur (chanAt s .left).volumeChannelDefault])
      ∧ (s.par.testSweep[s.sweepIndex]? = none →
        (phasesBeforeCommand s).sweepActive = false
          ∧ (chanAt (phasesBeforeCommand s) .left).isPlaying = false
          ∧ (phasesBeforeCommand s).tx = s.tx ++ [.testEnd true])

/-- 10_state.md R48: what the phases before the command leave of channel 1 depends on channel 1, the time and the
parameters alone, and of channel 0 on channel 0, the time, the parameters and the sweep state alone. -/
def Obligations.PhasesKeepTheChannelsApart : Prop :=
  ∀ s t : State, PerPass s → s.par = t.par → s.time = t.time →
    (SameLane .right s t → SameLane .right (phasesBeforeCommand s) (phasesBeforeCommand t))
    ∧ (SameLane .left s t → s.sweepActive = t.sweepActive → s.sweepIndex = t.sweepIndex →
      SameLane .left (phasesBeforeCommand s) (phasesBeforeCommand t))

/-! ## Envelope, frequencies and generators (43, 44, 45) -/

/-- 45_envelope_scheduler.md R230 to R233: the value of the envelope in each of its phases. -/
def Obligations.EnvelopeRampsAreLinear : Prop :=
  ∀ (s : State) (c : Chan) (er : Nat),
    (er : Int) = (((s.time / 1000 : Nat) : Int) - (chanAt s c).releaseStartTime.toNat) % 4294967296 →
    (envelopeOutput s c).toNat =
      if (chanAt s c).envelope = .release then
        (if s.par.releaseTime ≤ er then 0
         else (chanAt s c).releaseStartVolume.toNat * (s.par.releaseTime - er) / s.par.releaseTime)
      else if elapsedMs s c < s.par.attackTime then
        (chanAt s c).volumeTarget.toNat * elapsedMs s c / s.par.attackTime
      else (chanAt s c).volumeTarget.toNat

/-- 45_envelope_scheduler.md R234, its first sentence: the envelope never exceeds the larger of the sustain target and the
volume captured on entry to Release. -/
def Obligations.EnvelopeStaysWithinItsVolumes : Prop :=
  ∀ (s : State) (c : Chan), (envelopeOutput s c).toNat
    ≤ max (chanAt s c).volumeTarget.toNat (chanAt s c).releaseStartVolume.toNat

/-- 42_channel_state_machine.md R165, 60_exceptions.md R304: the frequency a note plays at stands for the requested real
clamped to [20, 8000]. -/
def Obligations.PlayedFrequencyIsTheClampedReal : Prop :=
  ∀ f : Freq, freqReal (clampFreq f) = min (max (freqReal f) 20) 8000

/-- 43_frequency_mapper.md R193, P1 to P4, of every FREQ_MAP a machine can have: the tuning reference, octave doubling
within the map's own tolerance (log 2), strict monotonicity, positivity; and R190: the exact map is the formula, so that
its octaves double exactly. -/
def Obligations.FrequencyMapHasItsProperties : Prop :=
  (∀ m : FreqMap, freqReal (freqMap m 69) = 440
    ∧ (∀ n : Int, |freqReal (freqMap m (n + 12)) - 2 * freqReal (freqMap m n)|
        ≤ (octaveTolerance m : ℝ) * freqReal (freqMap m n))
    ∧ (∀ n k : Int, n < k → freqReal (freqMap m n) < freqReal (freqMap m k))
    ∧ ∀ n : Int, 0 < freqReal (freqMap m n))
  ∧ ∀ n : Int, freqReal (freqMap .exact n) = 440 * (2 : ℝ) ^ (((n : ℝ) - 69) / 12)
    ∧ freqReal (freqMap .exact (n + 12)) = 2 * freqReal (freqMap .exact n)

/-- 43_frequency_mapper.md R192, for the exact FREQ_MAP (R190; log 2): which notes play clamped, in SoftwareToggle and in
HardwareTone, whatever the state, duration and volume. -/
def Obligations.NotesReachTheirGeneratorModes : Prop :=
  ∀ (s : State) (c : Chan) (n : Int) (d : U32) (v : U8) (k : Channel),
    k = chanAt (playNote c (freqMap .exact n) d v s) c →
      (n ≤ 15 → freqReal k.frequency = 20 ∧ k.generatorMode = .softwareToggle)
      ∧ (16 ≤ n → n ≤ 83 → freqReal k.frequency = freqReal (freqMap .exact n) ∧ k.generatorMode = .softwareToggle)
      ∧ (84 ≤ n → n ≤ 119 → freqReal k.frequency = freqReal (freqMap .exact n) ∧ k.generatorMode = .hardwareTone)
      ∧ (120 ≤ n → freqReal k.frequency = 8000 ∧ k.generatorMode = .hardwareTone)

/-- 44_waveform_generator.md R200: HardwareTone is selected exactly above 1000 Hz. -/
def Obligations.HardwareToneIsAboveTheThreshold : Prop :=
  ∀ (s : State) (c : Chan) (fc : Freq), ((chanAt (genStart c fc s) c).generatorMode = .hardwareTone ↔ 1000 < freqReal fc)
    ∧ ((chanAt (genStart c fc s) c).generatorMode = .softwareToggle ↔ freqReal fc ≤ 1000)

/-- 44_waveform_generator.md R203: the toggle interval is the half-period in whole microseconds, rounded down. -/
def Obligations.ToggleIntervalIsTheHalfPeriod : Prop :=
  ∀ f : Freq, 20 ≤ freqReal f → freqReal f ≤ 1000 →
    (toggleInterval f).toNat = max 100 ⌊500000 / freqReal f⌋₊

/-- 44_waveform_generator.md R206: every duty shape of the model has Q1 to Q4, and the default is the one the rule
writes out. The family of the other shapes is the model's (log 6). -/
def Obligations.DutyShapesHaveTheirProperties : Prop :=
  (∀ (shape : DutyShape) (v w : U8) (level : Bool) (p interval : Nat),
    dutyLevel shape 0 level p interval = false ∧ dutyLevel shape v false p interval = false
      ∧ (p < interval → dutyLevel shape 255 true p interval = true)
      ∧ (v.toNat ≤ w.toNat → dutyLevel shape v level p interval = true →
          dutyLevel shape w level p interval = true))
  ∧ ∀ (v : U8) (level : Bool) (p interval : Nat),
    dutyLevel .standard v level p interval = (level && decide (255 * p < v.toNat * interval))

/-- 44_waveform_generator.md R207: a tone of `q` Hz, a rational, whose half-period is a whole number `half` of µs keeps its
free starting level for the first half-period and changes its level every half-period. That the wave begins with a whole
half-period is the model's choice (log 7), and that both half-periods are equal is what R207 calls the spec's reading of
"toggles". -/
def Obligations.ToneWaveAlternatesEveryHalfPeriod : Prop :=
  ∀ (q : Rat) (half us : Nat) (start : Bool), (half : Rat) * q = 500000 →
    (us < half → toneLevel start (.hz q) us = start)
    ∧ toneLevel start (.hz q) (us + half) = !toneLevel start (.hz q) us

/-- 44_waveform_generator.md R207, for every positive real frequency, notes among them: `us` µs after `tone_on` the level
is the free starting level, changed once for each half-period of `500000 / f` µs that has passed. That the wave begins
with a whole half-period is the model's choice (log 7), and that both half-periods are equal is what R207 calls the spec's
reading of "toggles". -/
def Obligations.ToneLevelCountsHalfPeriods : Prop :=
  ∀ (f : Freq) (us : Nat) (start : Bool), 0 < freqReal f →
    toneLevel start f us = (start ^^ decide (⌊(us : ℝ) / (500000 / freqReal f)⌋₊ % 2 = 1))

/-- 10_state.md R51, 60_exceptions.md R314: the two 32-bit views of the time base. -/
def Obligations.ClockViewsWrap : Prop :=
  ∀ s : State, (nowUs s).toNat = s.time % 4294967296 ∧ (nowMs s).toNat = s.time / 1000 % 4294967296

/-! ## The machine (10_state.md, 70_reset_and_hazards.md) -/

/-- 70_reset_and_hazards.md R350, R351: the values the spec gives after reset. -/
def Obligations.ResetLeavesTheStatedValues : Prop :=
  (∀ c : Chan, (chanAt State.reset c).isPlaying = false ∧ (chanAt State.reset c).frequency = .hz 0
    ∧ (chanAt State.reset c).volumeChannelDefault = State.reset.par.volumeReset
    ∧ (chanAt State.reset c).envelope = .idle ∧ (chanAt State.reset c).generatorMode = .off
    ∧ (chanAt State.reset c).pinLevel = false ∧ (chanAt State.reset c).appliedVolume = 0
    ∧ State.reset.pin.get c = .level false ∧ (State.reset.tone.get c).enabled = false)
  ∧ State.reset.time = 0 ∧ State.reset.rx = [] ∧ State.reset.tx = [.banner]
  ∧ State.reset.sweepActive = false ∧ State.reset.sweepIndex = 0 ∧ State.reset.refused = false

/-- 70_reset_and_hazards.md R352: every command is valid in the first pass. When the Host sends a line and its LF right
after reset and Dispatch moves next, that first pass carries out the line's instruction on the state after reset. It is
said for every value of the parameters and for every order of the later moves; that an agenda holds the order is log 11. -/
def Obligations.CommandActsInTheFirstPass : Prop :=
  ∀ (s : State) (p : Params) (line : List Byte) (rest : List Move) (i : Instr),
    s = { State.reset with par := p, agenda := line.map .send ++ .send Text.lf :: .dispatch :: rest } →
    Text.lf ∉ line → line.length < p.rxCapacity → decode p.lineMax line = .ok i →
      ∃ t, stepsFrom (line.length + 1) s = some t
        ∧ t = { s with rx := line ++ [Text.lf], agenda := .dispatch :: rest }
        ∧ step t = exec i { s with agenda := rest }

/-- The invariant holds after reset (10_state.md R46, R47, R50; 00_scope.md R13, R14, R16). The parameters are
those of logs 2 to 10. -/
def Obligations.ResetMeetsTheInvariant : Prop := StateInv State.reset

/-- Every step of every agent keeps the invariant: a channel that does not play is Idle, Off and silent with its
pin low and its tone off; one that plays has a frequency the clamp keeps, a legal duration and the generator mode
of that frequency, with the tone generator and the pin that mode gives (10_state.md R35, R46, R47, R50, R53). The
upper bound of a sweep note's duration is log 5. -/
def Obligations.EveryStepKeepsTheInvariant : Prop :=
  ∀ s t : State, StateInv s → step s = .next t → StateInv t

/-- 20_memory.md R73, 10_state.md R51, R56: no step of any agent writes a parameter, turns the time back or clears the
`refused` mark. -/
def Obligations.StepsKeepParametersTimeAndRefusal : Prop :=
  ∀ s t : State, step s = .next t →
    t.par = s.par ∧ s.time ≤ t.time ∧ (s.refused = true → t.refused = true)
end

