-- ==== Sys2Proof/Laws/Text.lean ====
section
/-! SUPPORT. The text of numbers and fields: what `digitsOnto`, `natText`, `fixedDigits`, `intText`, `ratText` and
`joinFields` write, byte by byte, and what `splitFields` makes of joined fields. -/

namespace Sys2Proof

/-- A byte that a number's text may hold: a digit, the minus sign or the point. -/
abbrev NumberByte (b : Byte) : Prop := Text.isDigit b = true ∨ b = Text.minus ∨ b = Text.dot

theorem numberByte_ne_lf {b : Byte} (h : NumberByte b) : b ≠ Text.lf := by
  rintro rfl; exact absurd h (by decide)

theorem numberByte_ne_comma {b : Byte} (h : NumberByte b) : b ≠ Text.comma := by
  rintro rfl; exact absurd h (by decide)

theorem toNat_digitByte {n : Nat} (h : n < 10) : (digitByte n).toNat = 0x30 + n := by
  simp only [digitByte, BitVec.toNat_ofNat]; omega

theorem isDigit_digitByte {n : Nat} (h : n < 10) : Text.isDigit (digitByte n) = true := by
  simp only [Text.isDigit, toNat_digitByte h, decide_eq_true_eq]; omega

theorem decimal_append_digit (ds : List Byte) {n : Nat} (h : n < 10) :
    Text.decimal (ds ++ [digitByte n]) = 10 * Text.decimal ds + n := by
  simp [Text.decimal, toNat_digitByte h]

/-- `digitsOnto` writes its digits in front of `acc`, and they do not depend on it. -/
theorem digitsOnto_append (fuel n : Nat) (acc : List Byte) : digitsOnto fuel n acc = digitsOnto fuel n [] ++ acc := by
  induction fuel generalizing n acc with
  | zero => rfl
  | succ fuel ih =>
    simp only [digitsOnto]
    split
    · rfl
    · rw [ih _ (digitByte (n % 10) :: acc), ih _ [digitByte (n % 10)]]; simp

theorem isDigit_digitsOnto (fuel n : Nat) : ∀ b ∈ digitsOnto fuel n [], Text.isDigit b = true := by
  induction fuel generalizing n with
  | zero => simp [digitsOnto]
  | succ fuel ih =>
    simp only [digitsOnto]
    split
    · next h => simpa using isDigit_digitByte h
    · rw [digitsOnto_append]
      intro b hb
      rcases List.mem_append.1 hb with hb | hb
      · exact ih _ b hb
      · rw [List.mem_singleton.1 hb]; exact isDigit_digitByte (Nat.mod_lt _ (by decide))

/-- With fuel above `n`, `digitsOnto` writes the value `n`. -/
theorem decimal_digitsOnto {fuel n : Nat} (h : n < fuel) : Text.decimal (digitsOnto fuel n []) = n := by
  induction fuel generalizing n with
  | zero => omega
  | succ fuel ih =>
    simp only [digitsOnto]
    split
    · next hn => simpa [Text.decimal] using decimal_append_digit [] hn
    · rw [digitsOnto_append, decimal_append_digit _ (Nat.mod_lt _ (by decide)), ih (by omega)]; omega

theorem isDigit_natText (n : Nat) : ∀ b ∈ natText n, Text.isDigit b = true := isDigit_digitsOnto _ _

theorem decimal_natText (n : Nat) : Text.decimal (natText n) = n := decimal_digitsOnto (Nat.lt_succ_self n)

theorem natText_ne_nil (n : Nat) : natText n ≠ [] := by
  simp only [natText, digitsOnto]
  split
  · simp
  · rw [digitsOnto_append]; simp

theorem isDigit_fixedDigits (k n : Nat) : ∀ b ∈ fixedDigits k n, Text.isDigit b = true := by
  induction k generalizing n with
  | zero => simp [fixedDigits]
  | succ k ih =>
    intro b hb
    rcases List.mem_append.1 hb with hb | hb
    · exact ih _ b hb
    · rw [List.mem_singleton.1 hb]; exact isDigit_digitByte (Nat.mod_lt _ (by decide))

@[simp] theorem length_fixedDigits (k n : Nat) : (fixedDigits k n).length = k := by
  induction k generalizing n with
  | zero => rfl
  | succ k ih => simp [fixedDigits, ih]

/-- The fixed digits behind the digits of the rest write the whole number. -/
theorem decimal_natText_fixedDigits (k n : Nat) :
    Text.decimal (natText (n / 10 ^ k) ++ fixedDigits k n) = n := by
  induction k generalizing n with
  | zero => simpa [fixedDigits] using decimal_natText n
  | succ k ih =>
    rw [fixedDigits, ← List.append_assoc, decimal_append_digit _ (Nat.mod_lt _ (by decide)), Nat.pow_succ',
      ← Nat.div_div_eq_div_mul, ih]
    omega

theorem numberByte_signText (b : Bool) : ∀ x ∈ signText b, NumberByte x := by
  cases b
  · simp [signText]
  · intro x hx; rw [List.mem_singleton.1 hx]; exact .inr (.inl rfl)

theorem numberByte_intText (x : Option Int) : ∀ b ∈ intText x, NumberByte b := by
  cases x with
  | none => simp [intText]
  | some x =>
    intro b hb
    rcases List.mem_append.1 hb with hb | hb
    · exact numberByte_signText _ b hb
    · exact .inl (isDigit_natText _ b hb)

theorem numberByte_ratText (q : Rat) : ∀ b ∈ ratText q, NumberByte b := by
  intro b hb
  simp only [ratText] at hb
  rcases List.mem_append.1 hb with hb | hb
  · rcases List.mem_append.1 hb with hb | hb
    · exact numberByte_signText _ b hb
    · exact .inl (isDigit_natText _ b hb)
  · split at hb
    · cases hb
    · rcases List.mem_cons.1 hb with rfl | hb
      · exact .inr (.inr rfl)
      · exact .inl (isDigit_fixedDigits _ _ b hb)

theorem numberByte_freqText (f : Option Rat) : ∀ b ∈ freqText f, NumberByte b := by
  cases f with
  | none => simp [freqText]
  | some q => exact numberByte_ratText q

/-- What joined fields hold: bytes of the fields, and commas. -/
theorem mem_joinFields {b : Byte} {fs : List (List Byte)} (h : b ∈ joinFields fs) :
    b = Text.comma ∨ ∃ f ∈ fs, b ∈ f := by
  induction fs with
  | nil => cases h
  | cons f fs ih =>
    cases fs with
    | nil => exact .inr ⟨f, by simp, h⟩
    | cons g gs =>
      rcases List.mem_append.1 h with h | h
      · exact .inr ⟨f, by simp, h⟩
      · rcases List.mem_cons.1 h with rfl | h
        · exact .inl rfl
        · rcases ih h with h | ⟨k, hk, hb⟩
          · exact .inl h
          · exact .inr ⟨k, List.mem_cons_of_mem _ hk, hb⟩

/-- A keyword and number fields joined hold no LF. -/
theorem lf_not_mem_joinFields {k : List Byte} {fs : List (List Byte)} (hk : Text.lf ∉ k)
    (hf : ∀ f ∈ fs, ∀ b ∈ f, NumberByte b) : Text.lf ∉ joinFields (k :: fs) := by
  intro h
  rcases mem_joinFields h with h | ⟨f, hm, hb⟩
  · exact absurd h (by decide)
  · rcases List.mem_cons.1 hm with rfl | hm
    · exact hk hb
    · exact numberByte_ne_lf (hf f hm _ hb) rfl

theorem splitFields_ne_nil (l : List Byte) : Text.splitFields l ≠ [] := by
  cases l with
  | nil => simp [Text.splitFields]
  | cons b bs =>
    simp only [Text.splitFields]
    split
    · simp
    · split <;> simp

/-- A field in front of a comma is the first field of what follows. -/
theorem splitFields_field {f : List Byte} (h : Text.comma ∉ f) (l : List Byte) :
    Text.splitFields (f ++ Text.comma :: l) = f :: Text.splitFields l := by
  induction f with
  | nil => simp [Text.splitFields]
  | cons b bs ih =>
    have hb : b ≠ Text.comma := fun e => h (by simp [e])
    have hs : Text.comma ∉ bs := fun e => h (by simp [e])
    simp [Text.splitFields, hb, ih hs]

theorem splitFields_last {f : List Byte} (h : Text.comma ∉ f) : Text.splitFields f = [f] := by
  induction f with
  | nil => rfl
  | cons b bs ih =>
    have hb : b ≠ Text.comma := fun e => h (by simp [e])
    have hs : Text.comma ∉ bs := fun e => h (by simp [e])
    simp [Text.splitFields, hb, ih hs]

/-- Splitting joined fields gives them back when no field holds a comma. -/
theorem splitFields_joinFields {fs : List (List Byte)} (h : ∀ f ∈ fs, Text.comma ∉ f) (hne : fs ≠ []) :
    Text.splitFields (joinFields fs) = fs := by
  induction fs with
  | nil => exact absurd rfl hne
  | cons f fs ih =>
    cases fs with
    | nil => exact splitFields_last (h f (by simp))
    | cons g gs =>
      rw [joinFields, splitFields_field (h f (by simp)), ih (fun k hk => h k (List.mem_cons_of_mem _ hk)) (by simp)]
      simp

end Sys2Proof
end

