-- ==== Sys2Proof/Laws/Claims.lean ====
section
/-! SUPPORT. The small lemmas of the terms that claims use: runs of steps, and lines as a token and fields. -/

namespace Sys2Proof.Machine

@[simp] theorem stepsFrom_zero (s : State) : stepsFrom 0 s = some s := rfl

/-- A step that answers a next state starts every run. -/
theorem stepsFrom_next {s t : State} (h : step s = .next t) (n : Nat) : stepsFrom (n + 1) s = stepsFrom n t := by
  simp only [stepsFrom, h]

@[simp] theorem fieldLine_nil (tok : List Byte) : fieldLine tok [] = tok := by simp [fieldLine]

/-- The fields of a line of a token and fields are those, 30_encoding.md R82. -/
theorem splitFields_fieldLine {tok : List Byte} {flds : List (List Byte)} (h : ∀ f ∈ tok :: flds, Text.comma ∉ f) :
    Text.splitFields (fieldLine tok flds) = tok :: flds := by
  induction flds generalizing tok with
  | nil => rw [fieldLine_nil]; exact splitFields_last (h tok (by simp))
  | cons f fs ih =>
    rw [show fieldLine tok (f :: fs) = tok ++ Text.comma :: fieldLine f fs by simp [fieldLine],
      splitFields_field (h tok (by simp)), ih fun g hg => h g (List.mem_cons_of_mem _ hg)]

end Sys2Proof.Machine
end

