-- ==== Sys2Proof/Laws/State.lean ====
section
/-! SUPPORT. One lemma per field and update of the state, each true by rfl, so that no proof unfolds a record update;
then reads of a channel after a write, and the clock under PerPass. -/

namespace Sys2Proof.Machine

@[simp] theorem get_set_same {α : Type} (p : PerChan α) (c : Chan) (a : α) : (p.set c a).get c = a := by
  cases c <;> rfl

theorem get_set_other {α : Type} (p : PerChan α) (c k : Chan) (a : α) (h : k ≠ c) :
    (p.set c a).get k = p.get k := by
  cases c <;> cases k <;> first | rfl | exact absurd rfl h

@[simp] theorem get_set_left_right {α : Type} (p : PerChan α) (a : α) :
    (p.set .left a).get .right = p.get .right := rfl

@[simp] theorem get_set_right_left {α : Type} (p : PerChan α) (a : α) :
    (p.set .right a).get .left = p.get .left := rfl

@[simp] theorem set_set_same {α : Type} (p : PerChan α) (c : Chan) (a b : α) :
    (p.set c a).set c b = p.set c b := by
  cases c <;> rfl

@[simp] theorem set_get_same {α : Type} (p : PerChan α) (c : Chan) : p.set c (p.get c) = p := by
  cases c <;> rfl

theorem perChan_ext {α : Type} {p q : PerChan α} (h : ∀ c, p.get c = q.get c) : p = q := by
  have hl := h .left
  have hr := h .right
  cases p; cases q
  simp only [PerChan.get] at hl hr
  subst hl hr
  rfl

@[simp] theorem setChan_ch (c : Chan) (f : Channel → Channel) (s : State) : (setChan c f s).ch = s.ch.set c (f (s.ch.get c)) := rfl

@[simp] theorem setChan_pin (c : Chan) (f : Channel → Channel) (s : State) : (setChan c f s).pin = s.pin := rfl

@[simp] theorem setChan_tone (c : Chan) (f : Channel → Channel) (s : State) : (setChan c f s).tone = s.tone := rfl

@[simp] theorem setChan_time (c : Chan) (f : Channel → Channel) (s : State) : (setChan c f s).time = s.time := rfl

@[simp] theorem setChan_phase (c : Chan) (f : Channel → Channel) (s : State) : (setChan c f s).phase = s.phase := rfl

@[simp] theorem setChan_rx (c : Chan) (f : Channel → Channel) (s : State) : (setChan c f s).rx = s.rx := rfl

@[simp] theorem setChan_tx (c : Chan) (f : Channel → Channel) (s : State) : (setChan c f s).tx = s.tx := rfl

@[simp] theorem setChan_sweepActive (c : Chan) (f : Channel → Channel) (s : State) : (setChan c f s).sweepActive = s.sweepActive := rfl

@[simp] theorem setChan_sweepIndex (c : Chan) (f : Channel → Channel) (s : State) : (setChan c f s).sweepIndex = s.sweepIndex := rfl

@[simp] theorem setChan_refused (c : Chan) (f : Channel → Channel) (s : State) : (setChan c f s).refused = s.refused := rfl

@[simp] theorem setChan_par (c : Chan) (f : Channel → Channel) (s : State) : (setChan c f s).par = s.par := rfl

@[simp] theorem setChan_agenda (c : Chan) (f : Channel → Channel) (s : State) : (setChan c f s).agenda = s.agenda := rfl

@[simp] theorem setChan_draws (c : Chan) (f : Channel → Channel) (s : State) : (setChan c f s).draws = s.draws := rfl

@[simp] theorem setPin_ch (c : Chan) (d : PinDrive) (s : State) : (setPin c d s).ch = s.ch := rfl

@[simp] theorem setPin_pin (c : Chan) (d : PinDrive) (s : State) : (setPin c d s).pin = s.pin.set c d := rfl

@[simp] theorem setPin_tone (c : Chan) (d : PinDrive) (s : State) : (setPin c d s).tone = s.tone := rfl

@[simp] theorem setPin_time (c : Chan) (d : PinDrive) (s : State) : (setPin c d s).time = s.time := rfl

@[simp] theorem setPin_phase (c : Chan) (d : PinDrive) (s : State) : (setPin c d s).phase = s.phase := rfl

@[simp] theorem setPin_rx (c : Chan) (d : PinDrive) (s : State) : (setPin c d s).rx = s.rx := rfl

@[simp] theorem setPin_tx (c : Chan) (d : PinDrive) (s : State) : (setPin c d s).tx = s.tx := rfl

@[simp] theorem setPin_sweepActive (c : Chan) (d : PinDrive) (s : State) : (setPin c d s).sweepActive = s.sweepActive := rfl

@[simp] theorem setPin_sweepIndex (c : Chan) (d : PinDrive) (s : State) : (setPin c d s).sweepIndex = s.sweepIndex := rfl

@[simp] theorem setPin_refused (c : Chan) (d : PinDrive) (s : State) : (setPin c d s).refused = s.refused := rfl

@[simp] theorem setPin_par (c : Chan) (d : PinDrive) (s : State) : (setPin c d s).par = s.par := rfl

@[simp] theorem setPin_agenda (c : Chan) (d : PinDrive) (s : State) : (setPin c d s).agenda = s.agenda := rfl

@[simp] theorem setPin_draws (c : Chan) (d : PinDrive) (s : State) : (setPin c d s).draws = s.draws := rfl

@[simp] theorem chanAt_setPin (c : Chan) (d : PinDrive) (s : State) (k : Chan) : chanAt (setPin c d s) k = chanAt s k := rfl

@[simp] theorem setTone_ch (c : Chan) (t : ToneGen) (s : State) : (setTone c t s).ch = s.ch := rfl

@[simp] theorem setTone_pin (c : Chan) (t : ToneGen) (s : State) : (setTone c t s).pin = s.pin := rfl

@[simp] theorem setTone_tone (c : Chan) (t : ToneGen) (s : State) : (setTone c t s).tone = s.tone.set c t := rfl

@[simp] theorem setTone_time (c : Chan) (t : ToneGen) (s : State) : (setTone c t s).time = s.time := rfl

@[simp] theorem setTone_phase (c : Chan) (t : ToneGen) (s : State) : (setTone c t s).phase = s.phase := rfl

@[simp] theorem setTone_rx (c : Chan) (t : ToneGen) (s : State) : (setTone c t s).rx = s.rx := rfl

@[simp] theorem setTone_tx (c : Chan) (t : ToneGen) (s : State) : (setTone c t s).tx = s.tx := rfl

@[simp] theorem setTone_sweepActive (c : Chan) (t : ToneGen) (s : State) : (setTone c t s).sweepActive = s.sweepActive := rfl

@[simp] theorem setTone_sweepIndex (c : Chan) (t : ToneGen) (s : State) : (setTone c t s).sweepIndex = s.sweepIndex := rfl

@[simp] theorem setTone_refused (c : Chan) (t : ToneGen) (s : State) : (setTone c t s).refused = s.refused := rfl

@[simp] theorem setTone_par (c : Chan) (t : ToneGen) (s : State) : (setTone c t s).par = s.par := rfl

@[simp] theorem setTone_agenda (c : Chan) (t : ToneGen) (s : State) : (setTone c t s).agenda = s.agenda := rfl

@[simp] theorem setTone_draws (c : Chan) (t : ToneGen) (s : State) : (setTone c t s).draws = s.draws := rfl

@[simp] theorem chanAt_setTone (c : Chan) (t : ToneGen) (s : State) (k : Chan) : chanAt (setTone c t s) k = chanAt s k := rfl

@[simp] theorem emit_ch (r : Report) (s : State) : (emit r s).ch = s.ch := rfl

@[simp] theorem emit_pin (r : Report) (s : State) : (emit r s).pin = s.pin := rfl

@[simp] theorem emit_tone (r : Report) (s : State) : (emit r s).tone = s.tone := rfl

@[simp] theorem emit_time (r : Report) (s : State) : (emit r s).time = s.time := rfl

@[simp] theorem emit_phase (r : Report) (s : State) : (emit r s).phase = s.phase := rfl

@[simp] theorem emit_rx (r : Report) (s : State) : (emit r s).rx = s.rx := rfl

@[simp] theorem emit_tx (r : Report) (s : State) : (emit r s).tx = s.tx ++ [r] := rfl

@[simp] theorem emit_sweepActive (r : Report) (s : State) : (emit r s).sweepActive = s.sweepActive := rfl

@[simp] theorem emit_sweepIndex (r : Report) (s : State) : (emit r s).sweepIndex = s.sweepIndex := rfl

@[simp] theorem emit_refused (r : Report) (s : State) : (emit r s).refused = s.refused := rfl

@[simp] theorem emit_par (r : Report) (s : State) : (emit r s).par = s.par := rfl

@[simp] theorem emit_agenda (r : Report) (s : State) : (emit r s).agenda = s.agenda := rfl

@[simp] theorem emit_draws (r : Report) (s : State) : (emit r s).draws = s.draws := rfl

@[simp] theorem chanAt_emit (r : Report) (s : State) (k : Chan) : chanAt (emit r s) k = chanAt s k := rfl

@[simp] theorem setSweep_ch (b : Bool) (n : Nat) (s : State) : (setSweep b n s).ch = s.ch := rfl

@[simp] theorem setSweep_pin (b : Bool) (n : Nat) (s : State) : (setSweep b n s).pin = s.pin := rfl

@[simp] theorem setSweep_tone (b : Bool) (n : Nat) (s : State) : (setSweep b n s).tone = s.tone := rfl

@[simp] theorem setSweep_time (b : Bool) (n : Nat) (s : State) : (setSweep b n s).time = s.time := rfl

@[simp] theorem setSweep_phase (b : Bool) (n : Nat) (s : State) : (setSweep b n s).phase = s.phase := rfl

@[simp] theorem setSweep_rx (b : Bool) (n : Nat) (s : State) : (setSweep b n s).rx = s.rx := rfl

@[simp] theorem setSweep_tx (b : Bool) (n : Nat) (s : State) : (setSweep b n s).tx = s.tx := rfl

@[simp] theorem setSweep_sweepActive (b : Bool) (n : Nat) (s : State) : (setSweep b n s).sweepActive = b := rfl

@[simp] theorem setSweep_sweepIndex (b : Bool) (n : Nat) (s : State) : (setSweep b n s).sweepIndex = n := rfl

@[simp] theorem setSweep_refused (b : Bool) (n : Nat) (s : State) : (setSweep b n s).refused = s.refused := rfl

@[simp] theorem setSweep_par (b : Bool) (n : Nat) (s : State) : (setSweep b n s).par = s.par := rfl

@[simp] theorem setSweep_agenda (b : Bool) (n : Nat) (s : State) : (setSweep b n s).agenda = s.agenda := rfl

@[simp] theorem setSweep_draws (b : Bool) (n : Nat) (s : State) : (setSweep b n s).draws = s.draws := rfl

@[simp] theorem chanAt_setSweep (b : Bool) (n : Nat) (s : State) (k : Chan) : chanAt (setSweep b n s) k = chanAt s k := rfl

@[simp] theorem readClock_ch (s : State) : (readClock s).ch = s.ch := rfl

@[simp] theorem readClock_pin (s : State) : (readClock s).pin = s.pin := rfl

@[simp] theorem readClock_tone (s : State) : (readClock s).tone = s.tone := rfl

@[simp] theorem readClock_time (s : State) : (readClock s).time = s.time + clockGapBefore s := rfl

@[simp] theorem readClock_phase (s : State) : (readClock s).phase = s.phase := rfl

@[simp] theorem readClock_rx (s : State) : (readClock s).rx = s.rx := rfl

@[simp] theorem readClock_tx (s : State) : (readClock s).tx = s.tx := rfl

@[simp] theorem readClock_sweepActive (s : State) : (readClock s).sweepActive = s.sweepActive := rfl

@[simp] theorem readClock_sweepIndex (s : State) : (readClock s).sweepIndex = s.sweepIndex := rfl

@[simp] theorem readClock_refused (s : State) : (readClock s).refused = s.refused := rfl

@[simp] theorem readClock_par (s : State) : (readClock s).par = s.par := rfl

@[simp] theorem readClock_agenda (s : State) : (readClock s).agenda = s.agenda := rfl

@[simp] theorem readClock_draws (s : State) : (readClock s).draws = s.draws + clockDraws s := rfl

@[simp] theorem chanAt_readClock (s : State) (k : Chan) : chanAt (readClock s) k = chanAt s k := rfl

@[simp] theorem chanAt_setChan_same (c : Chan) (f : Channel → Channel) (s : State) :
    chanAt (setChan c f s) c = f (chanAt s c) := get_set_same _ _ _

theorem chanAt_setChan_other (c k : Chan) (f : Channel → Channel) (s : State) (h : k ≠ c) :
    chanAt (setChan c f s) k = chanAt s k := get_set_other _ _ _ _ h

theorem clockGapBefore_perPass {s : State} (h : PerPass s) : clockGapBefore s = 0 := by
  simp [clockGapBefore, h]

theorem clockDraws_perPass {s : State} (h : PerPass s) : clockDraws s = 0 := by
  simp [clockDraws, h]

/-- With one sample per pass, a read of the clock changes nothing (42_channel_state_machine.md R161). -/
theorem readClock_perPass {s : State} (h : PerPass s) : readClock s = s := by
  simp [readClock, clockGapBefore_perPass h, clockDraws_perPass h]

end Sys2Proof.Machine
end

