-- ==== Sys2Proof/Laws/Ops.lean ====
section
/-! SUPPORT. What each shared operation does, said once: Stop, Play, CancelSweep, the generator's operations and the
clock. Later proofs cite these and do not unfold the operations. -/

namespace Sys2Proof.Machine

/-! The clock. -/

theorem time_le_readClock (s : State) : s.time ≤ (readClock s).time := Nat.le_add_right _ _

theorem nowMs_congr {s t : State} (h : s.time = t.time) : nowMs s = nowMs t := by simp [nowMs, h]

theorem nowUs_congr {s t : State} (h : s.time = t.time) : nowUs s = nowUs t := by simp [nowUs, h]

theorem elapsed_congr {s t : State} {c : Chan} (h : s.time = t.time) (hc : chanAt s c = chanAt t c) :
    elapsed s c = elapsed t c := by simp [elapsed, nowMs, h, hc]

/-! Stop and CancelSweep: the whole next state. -/

/-- `Stop(c)` is the state that 42_channel_state_machine.md R166 writes out, under any clock sampling. -/
theorem stopChan_eq (c : Chan) (s : State) : stopChan c s = stoppedState s c := rfl

/-- `CancelSweep()` is the state that 41_control_commands.md R144 writes out. -/
theorem cancelSweep_eq (s : State) : cancelSweep s = sweepCancelled s := by
  unfold cancelSweep sweepCancelled
  split
  · next h => simp [emit, setSweep]
  · next h => cases s; simp_all

theorem cancelSweepFor_eq (c : Chan) (s : State) : cancelSweepFor c s = beforePlay s c := by
  cases c
  · exact cancelSweep_eq s
  · rfl

/-! Play under one clock sample per pass: the whole next state. -/

/-- `Play(c, f, d, v)` is the state that 42_channel_state_machine.md R165 writes out. -/
theorem playNote_perPass {s : State} (h : PerPass s) (c : Chan) (f : Freq) (d : U32) (v : U8) :
    playNote c f d v s = playedState s c f d v := by
  have hstop : readClock (stopChan c s) = stopChan c s := readClock_perPass h
  unfold playNote
  simp only [hstop]
  unfold genStart
  split
  · next ha =>
    cases c <;>
      simp [playedState, playedChannel, ha, emit, toneOn, setPin, setTone, setChan, stopChan, genStop, toneOff,
        startNote, chanAt, PerChan.get, PerChan.set, nowMs]
  · next ha =>
    simp only [swStart]
    rw [readClock_perPass (by exact h)]
    cases c <;>
      simp [playedState, playedChannel, ha, emit, setPin, setTone, setChan, stopChan, genStop, toneOff,
        startNote, chanAt, PerChan.get, PerChan.set, nowMs, nowUs]

end Sys2Proof.Machine
end

