-- ==== Sys2Proof/Laws/Frames.lean ====
section
/-! SUPPORT. The frame of each shared operation, under any clock sampling: the fields it leaves as they were. -/

namespace Sys2Proof.Machine

@[simp] theorem toneOn_ch (c : Chan) (f : Freq) (s : State) : (toneOn c f s).ch = s.ch := rfl

@[simp] theorem toneOn_time (c : Chan) (f : Freq) (s : State) : (toneOn c f s).time = s.time := rfl

@[simp] theorem toneOn_phase (c : Chan) (f : Freq) (s : State) : (toneOn c f s).phase = s.phase := rfl

@[simp] theorem toneOn_rx (c : Chan) (f : Freq) (s : State) : (toneOn c f s).rx = s.rx := rfl

@[simp] theorem toneOn_tx (c : Chan) (f : Freq) (s : State) : (toneOn c f s).tx = s.tx := rfl

@[simp] theorem toneOn_sweepActive (c : Chan) (f : Freq) (s : State) : (toneOn c f s).sweepActive = s.sweepActive := rfl

@[simp] theorem toneOn_sweepIndex (c : Chan) (f : Freq) (s : State) : (toneOn c f s).sweepIndex = s.sweepIndex := rfl

@[simp] theorem toneOn_refused (c : Chan) (f : Freq) (s : State) : (toneOn c f s).refused = s.refused := rfl

@[simp] theorem toneOn_par (c : Chan) (f : Freq) (s : State) : (toneOn c f s).par = s.par := rfl

@[simp] theorem toneOn_agenda (c : Chan) (f : Freq) (s : State) : (toneOn c f s).agenda = s.agenda := rfl

@[simp] theorem toneOn_draws (c : Chan) (f : Freq) (s : State) : (toneOn c f s).draws = s.draws := rfl

@[simp] theorem toneOff_ch (c : Chan) (s : State) : (toneOff c s).ch = s.ch := rfl

@[simp] theorem toneOff_pin (c : Chan) (s : State) : (toneOff c s).pin = s.pin := rfl

@[simp] theorem toneOff_time (c : Chan) (s : State) : (toneOff c s).time = s.time := rfl

@[simp] theorem toneOff_phase (c : Chan) (s : State) : (toneOff c s).phase = s.phase := rfl

@[simp] theorem toneOff_rx (c : Chan) (s : State) : (toneOff c s).rx = s.rx := rfl

@[simp] theorem toneOff_tx (c : Chan) (s : State) : (toneOff c s).tx = s.tx := rfl

@[simp] theorem toneOff_sweepActive (c : Chan) (s : State) : (toneOff c s).sweepActive = s.sweepActive := rfl

@[simp] theorem toneOff_sweepIndex (c : Chan) (s : State) : (toneOff c s).sweepIndex = s.sweepIndex := rfl

@[simp] theorem toneOff_refused (c : Chan) (s : State) : (toneOff c s).refused = s.refused := rfl

@[simp] theorem toneOff_par (c : Chan) (s : State) : (toneOff c s).par = s.par := rfl

@[simp] theorem toneOff_agenda (c : Chan) (s : State) : (toneOff c s).agenda = s.agenda := rfl

@[simp] theorem toneOff_draws (c : Chan) (s : State) : (toneOff c s).draws = s.draws := rfl

@[simp] theorem genStop_ch (c : Chan) (s : State) : (genStop c s).ch = s.ch := rfl

@[simp] theorem genStop_time (c : Chan) (s : State) : (genStop c s).time = s.time := rfl

@[simp] theorem genStop_phase (c : Chan) (s : State) : (genStop c s).phase = s.phase := rfl

@[simp] theorem genStop_rx (c : Chan) (s : State) : (genStop c s).rx = s.rx := rfl

@[simp] theorem genStop_tx (c : Chan) (s : State) : (genStop c s).tx = s.tx := rfl

@[simp] theorem genStop_sweepActive (c : Chan) (s : State) : (genStop c s).sweepActive = s.sweepActive := rfl

@[simp] theorem genStop_sweepIndex (c : Chan) (s : State) : (genStop c s).sweepIndex = s.sweepIndex := rfl

@[simp] theorem genStop_refused (c : Chan) (s : State) : (genStop c s).refused = s.refused := rfl

@[simp] theorem genStop_par (c : Chan) (s : State) : (genStop c s).par = s.par := rfl

@[simp] theorem genStop_agenda (c : Chan) (s : State) : (genStop c s).agenda = s.agenda := rfl

@[simp] theorem genStop_draws (c : Chan) (s : State) : (genStop c s).draws = s.draws := rfl

@[simp] theorem stopChan_time (c : Chan) (s : State) : (stopChan c s).time = s.time := rfl

@[simp] theorem stopChan_phase (c : Chan) (s : State) : (stopChan c s).phase = s.phase := rfl

@[simp] theorem stopChan_rx (c : Chan) (s : State) : (stopChan c s).rx = s.rx := rfl

@[simp] theorem stopChan_tx (c : Chan) (s : State) : (stopChan c s).tx = s.tx := rfl

@[simp] theorem stopChan_sweepActive (c : Chan) (s : State) : (stopChan c s).sweepActive = s.sweepActive := rfl

@[simp] theorem stopChan_sweepIndex (c : Chan) (s : State) : (stopChan c s).sweepIndex = s.sweepIndex := rfl

@[simp] theorem stopChan_refused (c : Chan) (s : State) : (stopChan c s).refused = s.refused := rfl

@[simp] theorem stopChan_par (c : Chan) (s : State) : (stopChan c s).par = s.par := rfl

@[simp] theorem stopChan_agenda (c : Chan) (s : State) : (stopChan c s).agenda = s.agenda := rfl

@[simp] theorem stopChan_draws (c : Chan) (s : State) : (stopChan c s).draws = s.draws := rfl

@[simp] theorem swStart_tone (c : Chan) (f : Freq) (s : State) : (swStart c f s).tone = s.tone := rfl

@[simp] theorem swStart_phase (c : Chan) (f : Freq) (s : State) : (swStart c f s).phase = s.phase := rfl

@[simp] theorem swStart_rx (c : Chan) (f : Freq) (s : State) : (swStart c f s).rx = s.rx := rfl

@[simp] theorem swStart_tx (c : Chan) (f : Freq) (s : State) : (swStart c f s).tx = s.tx := rfl

@[simp] theorem swStart_sweepActive (c : Chan) (f : Freq) (s : State) : (swStart c f s).sweepActive = s.sweepActive := rfl

@[simp] theorem swStart_sweepIndex (c : Chan) (f : Freq) (s : State) : (swStart c f s).sweepIndex = s.sweepIndex := rfl

@[simp] theorem swStart_refused (c : Chan) (f : Freq) (s : State) : (swStart c f s).refused = s.refused := rfl

@[simp] theorem swStart_par (c : Chan) (f : Freq) (s : State) : (swStart c f s).par = s.par := rfl

@[simp] theorem swStart_agenda (c : Chan) (f : Freq) (s : State) : (swStart c f s).agenda = s.agenda := rfl

@[simp] theorem genStart_phase (c : Chan) (f : Freq) (s : State) : (genStart c f s).phase = s.phase := rfl

@[simp] theorem genStart_rx (c : Chan) (f : Freq) (s : State) : (genStart c f s).rx = s.rx := by
  unfold genStart; split <;> rfl

@[simp] theorem genStart_tx (c : Chan) (f : Freq) (s : State) : (genStart c f s).tx = s.tx := by
  unfold genStart; split <;> rfl

@[simp] theorem genStart_sweepActive (c : Chan) (f : Freq) (s : State) : (genStart c f s).sweepActive = s.sweepActive := by
  unfold genStart; split <;> rfl

@[simp] theorem genStart_sweepIndex (c : Chan) (f : Freq) (s : State) : (genStart c f s).sweepIndex = s.sweepIndex := by
  unfold genStart; split <;> rfl

@[simp] theorem genStart_refused (c : Chan) (f : Freq) (s : State) : (genStart c f s).refused = s.refused := by
  unfold genStart; split <;> rfl

@[simp] theorem genStart_par (c : Chan) (f : Freq) (s : State) : (genStart c f s).par = s.par := by
  unfold genStart; split <;> rfl

@[simp] theorem genStart_agenda (c : Chan) (f : Freq) (s : State) : (genStart c f s).agenda = s.agenda := by
  unfold genStart; split <;> rfl

@[simp] theorem playNote_phase (c : Chan) (f : Freq) (d : U32) (v : U8) (s : State) : (playNote c f d v s).phase = s.phase := rfl

@[simp] theorem playNote_rx (c : Chan) (f : Freq) (d : U32) (v : U8) (s : State) : (playNote c f d v s).rx = s.rx := by
  simp [playNote]

@[simp] theorem playNote_sweepActive (c : Chan) (f : Freq) (d : U32) (v : U8) (s : State) : (playNote c f d v s).sweepActive = s.sweepActive := by
  simp [playNote]

@[simp] theorem playNote_sweepIndex (c : Chan) (f : Freq) (d : U32) (v : U8) (s : State) : (playNote c f d v s).sweepIndex = s.sweepIndex := by
  simp [playNote]

@[simp] theorem playNote_refused (c : Chan) (f : Freq) (d : U32) (v : U8) (s : State) : (playNote c f d v s).refused = s.refused := by
  simp [playNote]

@[simp] theorem playNote_par (c : Chan) (f : Freq) (d : U32) (v : U8) (s : State) : (playNote c f d v s).par = s.par := by
  simp [playNote]

@[simp] theorem playNote_agenda (c : Chan) (f : Freq) (d : U32) (v : U8) (s : State) : (playNote c f d v s).agenda = s.agenda := by
  simp [playNote]

@[simp] theorem swToggle_pin (c : Chan) (s : State) : (swToggle c s).pin = s.pin := rfl

@[simp] theorem swToggle_tone (c : Chan) (s : State) : (swToggle c s).tone = s.tone := rfl

@[simp] theorem swToggle_phase (c : Chan) (s : State) : (swToggle c s).phase = s.phase := rfl

@[simp] theorem swToggle_rx (c : Chan) (s : State) : (swToggle c s).rx = s.rx := rfl

@[simp] theorem swToggle_tx (c : Chan) (s : State) : (swToggle c s).tx = s.tx := rfl

@[simp] theorem swToggle_sweepActive (c : Chan) (s : State) : (swToggle c s).sweepActive = s.sweepActive := rfl

@[simp] theorem swToggle_sweepIndex (c : Chan) (s : State) : (swToggle c s).sweepIndex = s.sweepIndex := rfl

@[simp] theorem swToggle_refused (c : Chan) (s : State) : (swToggle c s).refused = s.refused := rfl

@[simp] theorem swToggle_par (c : Chan) (s : State) : (swToggle c s).par = s.par := rfl

@[simp] theorem swToggle_agenda (c : Chan) (s : State) : (swToggle c s).agenda = s.agenda := rfl

@[simp] theorem swOutput_ch (c : Chan) (s : State) : (swOutput c s).ch = s.ch := rfl

@[simp] theorem swOutput_tone (c : Chan) (s : State) : (swOutput c s).tone = s.tone := rfl

@[simp] theorem swOutput_phase (c : Chan) (s : State) : (swOutput c s).phase = s.phase := rfl

@[simp] theorem swOutput_rx (c : Chan) (s : State) : (swOutput c s).rx = s.rx := rfl

@[simp] theorem swOutput_tx (c : Chan) (s : State) : (swOutput c s).tx = s.tx := rfl

@[simp] theorem swOutput_sweepActive (c : Chan) (s : State) : (swOutput c s).sweepActive = s.sweepActive := rfl

@[simp] theorem swOutput_sweepIndex (c : Chan) (s : State) : (swOutput c s).sweepIndex = s.sweepIndex := rfl

@[simp] theorem swOutput_refused (c : Chan) (s : State) : (swOutput c s).refused = s.refused := rfl

@[simp] theorem swOutput_par (c : Chan) (s : State) : (swOutput c s).par = s.par := rfl

@[simp] theorem swOutput_agenda (c : Chan) (s : State) : (swOutput c s).agenda = s.agenda := rfl

@[simp] theorem swAdvance_tone (c : Chan) (s : State) : (swAdvance c s).tone = s.tone := by
  simp only [swAdvance, swOutput_tone]; split <;> rfl

@[simp] theorem swAdvance_phase (c : Chan) (s : State) : (swAdvance c s).phase = s.phase := rfl

@[simp] theorem swAdvance_rx (c : Chan) (s : State) : (swAdvance c s).rx = s.rx := by
  simp only [swAdvance, swOutput_rx]; split <;> rfl

@[simp] theorem swAdvance_tx (c : Chan) (s : State) : (swAdvance c s).tx = s.tx := by
  simp only [swAdvance, swOutput_tx]; split <;> rfl

@[simp] theorem swAdvance_sweepActive (c : Chan) (s : State) : (swAdvance c s).sweepActive = s.sweepActive := by
  simp only [swAdvance, swOutput_sweepActive]; split <;> rfl

@[simp] theorem swAdvance_sweepIndex (c : Chan) (s : State) : (swAdvance c s).sweepIndex = s.sweepIndex := by
  simp only [swAdvance, swOutput_sweepIndex]; split <;> rfl

@[simp] theorem swAdvance_refused (c : Chan) (s : State) : (swAdvance c s).refused = s.refused := by
  simp only [swAdvance, swOutput_refused]; split <;> rfl

@[simp] theorem swAdvance_par (c : Chan) (s : State) : (swAdvance c s).par = s.par := by
  simp only [swAdvance, swOutput_par]; split <;> rfl

@[simp] theorem swAdvance_agenda (c : Chan) (s : State) : (swAdvance c s).agenda = s.agenda := by
  simp only [swAdvance, swOutput_agenda]; split <;> rfl

@[simp] theorem enterRelease_pin (c : Chan) (s : State) : (enterRelease c s).pin = s.pin := rfl

@[simp] theorem enterRelease_tone (c : Chan) (s : State) : (enterRelease c s).tone = s.tone := rfl

@[simp] theorem enterRelease_phase (c : Chan) (s : State) : (enterRelease c s).phase = s.phase := rfl

@[simp] theorem enterRelease_rx (c : Chan) (s : State) : (enterRelease c s).rx = s.rx := rfl

@[simp] theorem enterRelease_tx (c : Chan) (s : State) : (enterRelease c s).tx = s.tx := rfl

@[simp] theorem enterRelease_sweepActive (c : Chan) (s : State) : (enterRelease c s).sweepActive = s.sweepActive := rfl

@[simp] theorem enterRelease_sweepIndex (c : Chan) (s : State) : (enterRelease c s).sweepIndex = s.sweepIndex := rfl

@[simp] theorem enterRelease_refused (c : Chan) (s : State) : (enterRelease c s).refused = s.refused := rfl

@[simp] theorem enterRelease_par (c : Chan) (s : State) : (enterRelease c s).par = s.par := rfl

@[simp] theorem enterRelease_agenda (c : Chan) (s : State) : (enterRelease c s).agenda = s.agenda := rfl

@[simp] theorem genAdvance_tone (c : Chan) (s : State) : (genAdvance c s).tone = s.tone := by
  simp only [genAdvance]; repeat' split
  all_goals simp

@[simp] theorem genAdvance_phase (c : Chan) (s : State) : (genAdvance c s).phase = s.phase := rfl

@[simp] theorem genAdvance_rx (c : Chan) (s : State) : (genAdvance c s).rx = s.rx := by
  simp only [genAdvance]; repeat' split
  all_goals simp

@[simp] theorem genAdvance_tx (c : Chan) (s : State) : (genAdvance c s).tx = s.tx := by
  simp only [genAdvance]; repeat' split
  all_goals simp

@[simp] theorem genAdvance_sweepActive (c : Chan) (s : State) : (genAdvance c s).sweepActive = s.sweepActive := by
  simp only [genAdvance]; repeat' split
  all_goals simp

@[simp] theorem genAdvance_sweepIndex (c : Chan) (s : State) : (genAdvance c s).sweepIndex = s.sweepIndex := by
  simp only [genAdvance]; repeat' split
  all_goals simp

@[simp] theorem genAdvance_refused (c : Chan) (s : State) : (genAdvance c s).refused = s.refused := by
  simp only [genAdvance]; repeat' split
  all_goals simp

@[simp] theorem genAdvance_par (c : Chan) (s : State) : (genAdvance c s).par = s.par := by
  simp only [genAdvance]; repeat' split
  all_goals simp

@[simp] theorem genAdvance_agenda (c : Chan) (s : State) : (genAdvance c s).agenda = s.agenda := by
  simp only [genAdvance]; repeat' split
  all_goals simp

@[simp] theorem transitionCheck_phase (c : Chan) (s : State) : (transitionCheck c s).phase = s.phase := rfl

@[simp] theorem transitionCheck_rx (c : Chan) (s : State) : (transitionCheck c s).rx = s.rx := by
  simp only [transitionCheck]; repeat' split
  all_goals simp

@[simp] theorem transitionCheck_tx (c : Chan) (s : State) : (transitionCheck c s).tx = s.tx := by
  simp only [transitionCheck]; repeat' split
  all_goals simp

@[simp] theorem transitionCheck_sweepActive (c : Chan) (s : State) : (transitionCheck c s).sweepActive = s.sweepActive := by
  simp only [transitionCheck]; repeat' split
  all_goals simp

@[simp] theorem transitionCheck_sweepIndex (c : Chan) (s : State) : (transitionCheck c s).sweepIndex = s.sweepIndex := by
  simp only [transitionCheck]; repeat' split
  all_goals simp

@[simp] theorem transitionCheck_refused (c : Chan) (s : State) : (transitionCheck c s).refused = s.refused := by
  simp only [transitionCheck]; repeat' split
  all_goals simp

@[simp] theorem transitionCheck_par (c : Chan) (s : State) : (transitionCheck c s).par = s.par := by
  simp only [transitionCheck]; repeat' split
  all_goals simp

@[simp] theorem transitionCheck_agenda (c : Chan) (s : State) : (transitionCheck c s).agenda = s.agenda := by
  simp only [transitionCheck]; repeat' split
  all_goals simp

@[simp] theorem cancelSweep_ch (s : State) : (cancelSweep s).ch = s.ch := by
  unfold cancelSweep; split <;> rfl

@[simp] theorem cancelSweep_pin (s : State) : (cancelSweep s).pin = s.pin := by
  unfold cancelSweep; split <;> rfl

@[simp] theorem cancelSweep_tone (s : State) : (cancelSweep s).tone = s.tone := by
  unfold cancelSweep; split <;> rfl

@[simp] theorem cancelSweep_time (s : State) : (cancelSweep s).time = s.time := by
  unfold cancelSweep; split <;> rfl

@[simp] theorem cancelSweep_phase (s : State) : (cancelSweep s).phase = s.phase := rfl

@[simp] theorem cancelSweep_rx (s : State) : (cancelSweep s).rx = s.rx := by
  unfold cancelSweep; split <;> rfl

@[simp] theorem cancelSweep_sweepIndex (s : State) : (cancelSweep s).sweepIndex = s.sweepIndex := by
  unfold cancelSweep; split <;> rfl

@[simp] theorem cancelSweep_refused (s : State) : (cancelSweep s).refused = s.refused := by
  unfold cancelSweep; split <;> rfl

@[simp] theorem cancelSweep_par (s : State) : (cancelSweep s).par = s.par := by
  unfold cancelSweep; split <;> rfl

@[simp] theorem cancelSweep_agenda (s : State) : (cancelSweep s).agenda = s.agenda := by
  unfold cancelSweep; split <;> rfl

@[simp] theorem cancelSweep_draws (s : State) : (cancelSweep s).draws = s.draws := by
  unfold cancelSweep; split <;> rfl

@[simp] theorem cancelSweepFor_ch (c : Chan) (s : State) : (cancelSweepFor c s).ch = s.ch := by
  cases c <;> simp [cancelSweepFor]

@[simp] theorem cancelSweepFor_pin (c : Chan) (s : State) : (cancelSweepFor c s).pin = s.pin := by
  cases c <;> simp [cancelSweepFor]

@[simp] theorem cancelSweepFor_tone (c : Chan) (s : State) : (cancelSweepFor c s).tone = s.tone := by
  cases c <;> simp [cancelSweepFor]

@[simp] theorem cancelSweepFor_time (c : Chan) (s : State) : (cancelSweepFor c s).time = s.time := by
  cases c <;> simp [cancelSweepFor]

@[simp] theorem cancelSweepFor_phase (c : Chan) (s : State) : (cancelSweepFor c s).phase = s.phase := rfl

@[simp] theorem cancelSweepFor_rx (c : Chan) (s : State) : (cancelSweepFor c s).rx = s.rx := by
  cases c <;> simp [cancelSweepFor]

@[simp] theorem cancelSweepFor_sweepIndex (c : Chan) (s : State) : (cancelSweepFor c s).sweepIndex = s.sweepIndex := by
  cases c <;> simp [cancelSweepFor]

@[simp] theorem cancelSweepFor_refused (c : Chan) (s : State) : (cancelSweepFor c s).refused = s.refused := by
  cases c <;> simp [cancelSweepFor]

@[simp] theorem cancelSweepFor_par (c : Chan) (s : State) : (cancelSweepFor c s).par = s.par := by
  cases c <;> simp [cancelSweepFor]

@[simp] theorem cancelSweepFor_agenda (c : Chan) (s : State) : (cancelSweepFor c s).agenda = s.agenda := by
  cases c <;> simp [cancelSweepFor]

@[simp] theorem cancelSweepFor_draws (c : Chan) (s : State) : (cancelSweepFor c s).draws = s.draws := by
  cases c <;> simp [cancelSweepFor]

@[simp] theorem sweepAdvance_phase (s : State) : (sweepAdvance s).phase = s.phase := rfl

@[simp] theorem sweepAdvance_rx (s : State) : (sweepAdvance s).rx = s.rx := by
  unfold sweepAdvance; split <;> simp

@[simp] theorem sweepAdvance_refused (s : State) : (sweepAdvance s).refused = s.refused := by
  unfold sweepAdvance; split <;> simp

@[simp] theorem sweepAdvance_par (s : State) : (sweepAdvance s).par = s.par := by
  unfold sweepAdvance; split <;> simp

@[simp] theorem sweepAdvance_agenda (s : State) : (sweepAdvance s).agenda = s.agenda := by
  unfold sweepAdvance; split <;> simp

@[simp] theorem sweepStep_phase (s : State) : (sweepStep s).phase = s.phase := rfl

@[simp] theorem sweepStep_rx (s : State) : (sweepStep s).rx = s.rx := by
  unfold sweepStep; split <;> simp

@[simp] theorem sweepStep_refused (s : State) : (sweepStep s).refused = s.refused := by
  unfold sweepStep; split <;> simp

@[simp] theorem sweepStep_par (s : State) : (sweepStep s).par = s.par := by
  unfold sweepStep; split <;> simp

@[simp] theorem sweepStep_agenda (s : State) : (sweepStep s).agenda = s.agenda := by
  unfold sweepStep; split <;> simp

@[simp] theorem phasesBeforeCommand_phase (s : State) : (phasesBeforeCommand s).phase = s.phase := rfl

@[simp] theorem phasesBeforeCommand_rx (s : State) : (phasesBeforeCommand s).rx = s.rx := by
  simp [phasesBeforeCommand]

@[simp] theorem phasesBeforeCommand_refused (s : State) : (phasesBeforeCommand s).refused = s.refused := by
  simp [phasesBeforeCommand]

@[simp] theorem phasesBeforeCommand_par (s : State) : (phasesBeforeCommand s).par = s.par := by
  simp [phasesBeforeCommand]

@[simp] theorem phasesBeforeCommand_agenda (s : State) : (phasesBeforeCommand s).agenda = s.agenda := by
  simp [phasesBeforeCommand]

@[simp] theorem readForStatus_ch (c : Chan) (s : State) : (readForStatus c s).ch = s.ch := by
  unfold readForStatus; split <;> rfl

@[simp] theorem readForStatus_pin (c : Chan) (s : State) : (readForStatus c s).pin = s.pin := by
  unfold readForStatus; split <;> rfl

@[simp] theorem readForStatus_tone (c : Chan) (s : State) : (readForStatus c s).tone = s.tone := by
  unfold readForStatus; split <;> rfl

@[simp] theorem readForStatus_phase (c : Chan) (s : State) : (readForStatus c s).phase = s.phase := rfl

@[simp] theorem readForStatus_rx (c : Chan) (s : State) : (readForStatus c s).rx = s.rx := by
  unfold readForStatus; split <;> rfl

@[simp] theorem readForStatus_tx (c : Chan) (s : State) : (readForStatus c s).tx = s.tx := by
  unfold readForStatus; split <;> rfl

@[simp] theorem readForStatus_sweepActive (c : Chan) (s : State) : (readForStatus c s).sweepActive = s.sweepActive := by
  unfold readForStatus; split <;> rfl

@[simp] theorem readForStatus_sweepIndex (c : Chan) (s : State) : (readForStatus c s).sweepIndex = s.sweepIndex := by
  unfold readForStatus; split <;> rfl

@[simp] theorem readForStatus_refused (c : Chan) (s : State) : (readForStatus c s).refused = s.refused := by
  unfold readForStatus; split <;> rfl

@[simp] theorem readForStatus_par (c : Chan) (s : State) : (readForStatus c s).par = s.par := by
  unfold readForStatus; split <;> rfl

@[simp] theorem readForStatus_agenda (c : Chan) (s : State) : (readForStatus c s).agenda = s.agenda := by
  unfold readForStatus; split <;> rfl

end Sys2Proof.Machine
end

