-- ==== Sys2Proof/Laws/Frequency.lean ====
section
/-! SUPPORT. The integer comparisons of frequencies decide the comparisons of the real numbers they stand for. -/

namespace Sys2Proof.Machine

/-- What a free real's rounded multiples are multiples of. -/
theorem freeCut_is (r : FreeReal) : (freeCut r).Is (freeReal r) := by
  cases r with
  | mapped id n => exact (Config.noteMap id).legal.choose_spec.1 n
  | plain id => exact (Config.freeReal id).isReal.choose_spec

theorem freqReal_note_pos (n : Int) : 0 < freqReal (.note n) := by
  unfold freqReal
  positivity

/-- `(440 * 2^((n - 69) / 12))^12 · 2^(69 - n)` is `440^12 · 2^(n - 69)`, both powers of two whole. -/
theorem freqReal_note_pow (n : Int) :
    (freqReal (.note n)) ^ 12 * (notePowDown n : ℝ) = (a4Hz : ℝ) ^ 12 * (notePowUp n : ℝ) := by
  have hpow : ((2 : ℝ) ^ (((n : ℝ) - 69) / 12)) ^ 12 = (2 : ℝ) ^ (n - 69) := by
    rw [← Real.rpow_natCast, ← Real.rpow_mul (by norm_num), ← Real.rpow_intCast]
    congr 1
    push_cast
    ring
  have hz : (2 : ℝ) ^ (n - 69) * (notePowDown n : ℝ) = (notePowUp n : ℝ) := by
    simp only [notePowDown, notePowUp, a4Note, Nat.cast_pow, Nat.cast_ofNat]
    rw [← zpow_natCast, ← zpow_natCast, ← zpow_add₀ (by norm_num)]
    congr 1
    omega
  simp only [freqReal, mul_pow, hpow, a4Hz, Nat.cast_ofNat, mul_assoc, hz]

theorem notePowDown_pos (n : Int) : (0 : ℝ) < notePowDown n := by
  simp [notePowDown]

theorem scaledLe_iff (a b : Nat) (f : Freq) : scaledLe a f b = true ↔ (a : ℝ) * freqReal f ≤ b := by
  cases f with
  | hz q =>
    simp only [scaledLe, decide_eq_true_eq, freqReal]
    have hd : (0 : ℚ) < q.den := by exact_mod_cast q.den_pos
    have hq : q * q.den = q.num := Rat.mul_den_eq_num q
    have h : ((a : ℚ) * q ≤ b) ↔ ((a : Int) * q.num ≤ (b : Int) * q.den) := by
      rw [← mul_le_mul_iff_left₀ hd, mul_assoc, hq]
      exact_mod_cast Iff.rfl
    rw [← h]
    exact_mod_cast Iff.rfl
  | note n =>
    simp only [scaledLe, decide_eq_true_eq]
    have hf := freqReal_note_pos n
    have hd := notePowDown_pos n
    have key : ((a * a4Hz : ℕ) : ℝ) ^ 12 * notePowUp n = (a * freqReal (.note n)) ^ 12 * notePowDown n := by
      rw [mul_pow, mul_assoc, freqReal_note_pow n]
      push_cast
      ring
    constructor
    · intro h
      have h' : ((a * a4Hz : ℕ) : ℝ) ^ 12 * notePowUp n ≤ (b : ℝ) ^ 12 * notePowDown n := by exact_mod_cast h
      rw [key, mul_le_mul_iff_left₀ hd] at h'
      exact le_of_pow_le_pow_left₀ (by norm_num) (Nat.cast_nonneg b) h'
    · intro h
      have h' : (a * freqReal (.note n)) ^ 12 * notePowDown n ≤ (b : ℝ) ^ 12 * notePowDown n := by
        gcongr
      rw [← key] at h'
      exact_mod_cast h'
  | free r =>
    simp only [scaledLe, decide_eq_true_eq, (freeCut_is r a).2, freqReal]
    exact Nat.ceil_le

theorem isPositive_iff (f : Freq) : isPositive f = true ↔ 0 < freqReal f := by
  have h := scaledLe_iff 1 0 f
  rw [isPositive, Bool.not_eq_true', Bool.eq_false_iff, ne_eq, h]
  simp

theorem atLeast_iff {b : Nat} (hb : 0 < b) (f : Freq) : atLeast b f = true ↔ (b : ℝ) ≤ freqReal f := by
  cases f with
  | hz q =>
    simp only [atLeast, decide_eq_true_eq, freqReal]
    have hd : (0 : ℚ) < q.den := by exact_mod_cast q.den_pos
    have hq : q * q.den = q.num := Rat.mul_den_eq_num q
    have h : ((b : ℚ) ≤ q) ↔ ((b : Int) * q.den ≤ q.num) := by
      rw [← mul_le_mul_iff_left₀ hd, hq]
      exact_mod_cast Iff.rfl
    rw [← h]
    exact_mod_cast Iff.rfl
  | note n =>
    simp only [atLeast, decide_eq_true_eq]
    have hf := freqReal_note_pos n
    have hd := notePowDown_pos n
    constructor
    · intro h
      have h' : (b : ℝ) ^ 12 * notePowDown n ≤ (a4Hz : ℝ) ^ 12 * notePowUp n := by exact_mod_cast h
      rw [← freqReal_note_pow, mul_le_mul_iff_left₀ hd] at h'
      exact le_of_pow_le_pow_left₀ (by norm_num) hf.le h'
    · intro h
      have h' : (b : ℝ) ^ 12 * notePowDown n ≤ (freqReal (.note n)) ^ 12 * notePowDown n := by
        gcongr
      rw [freqReal_note_pow] at h'
      exact_mod_cast h'
  | free r =>
    simp only [atLeast, decide_eq_true_eq, (freeCut_is r 1).1, freqReal]
    rw [Nat.le_floor_iff' hb.ne']
    simp

theorem aboveThreshold_iff (f : Freq) : aboveThreshold f = true ↔ 1000 < freqReal f := by
  have h := scaledLe_iff 1 hwThreshold f
  simp only [aboveThreshold, Bool.not_eq_true', hwThreshold] at *
  rw [Bool.eq_false_iff, ne_eq, h]
  push_cast
  rw [one_mul, not_le]

/-- Both spellings of a note stand for the same real. -/
theorem freqReal_canonFreq (f : Freq) : freqReal (canonFreq f) = freqReal f := by
  cases f with
  | hz q => rfl
  | note n =>
    by_cases h : (n - a4Note) % 12 = 0
    · have hk : ∃ k : Int, n = 69 + 12 * k := ⟨(n - 69) / 12, by simp only [a4Note] at h; omega⟩
      obtain ⟨k, rfl⟩ := hk
      have h1 : (69 + 12 * k - a4Note) / 12 = k := by simp only [a4Note]; omega
      have h2 : (a4Note - (69 + 12 * k)) / 12 = -k := by simp only [a4Note]; omega
      have h3 : (((69 + 12 * k : Int) : ℝ) - 69) / 12 = (k : ℝ) := by push_cast; ring
      simp only [canonFreq, if_pos h, h1, h2, freqReal, h3, Real.rpow_intCast]
      rw [Rat.mkRat_eq_div]
      simp only [a4Hz]
      push_cast
      rw [mul_div_assoc]
      congr 1
      rw [← zpow_natCast, ← zpow_natCast, ← zpow_sub₀ (by norm_num)]
      congr 1
      omega
    · simp only [canonFreq, if_neg h]
  | free r => rfl

end Sys2Proof.Machine
end

