-- ==== Sys2Proof/Laws/Lanes.lean ====
section
/-! SUPPORT. An operation on one channel leaves the other channel's record, pin and tone generator (10_state.md R48), under
any clock sampling; and what Play leaves of its own channel. -/

namespace Sys2Proof.Machine

theorem sameLane_refl (k : Chan) (s : State) : SameLane k s s := ⟨rfl, rfl, rfl⟩

theorem sameLane_trans {k : Chan} {s t u : State} (h : SameLane k s t) (h' : SameLane k t u) :
    SameLane k s u := ⟨h.1.trans h'.1, h.2.1.trans h'.2.1, h.2.2.trans h'.2.2⟩

theorem sameLane_symm {k : Chan} {s t : State} (h : SameLane k s t) : SameLane k t s :=
  ⟨h.1.symm, h.2.1.symm, h.2.2.symm⟩

theorem sameLane_setChan {c k : Chan} (h : k ≠ c) (f : Channel → Channel) (s : State) :
    SameLane k s (setChan c f s) := ⟨(chanAt_setChan_other c k f s h).symm, rfl, rfl⟩

theorem sameLane_setPin {c k : Chan} (h : k ≠ c) (d : PinDrive) (s : State) : SameLane k s (setPin c d s) :=
  ⟨rfl, (get_set_other _ _ _ _ h).symm, rfl⟩

theorem sameLane_setTone {c k : Chan} (h : k ≠ c) (g : ToneGen) (s : State) :
    SameLane k s (setTone c g s) := ⟨rfl, rfl, (get_set_other _ _ _ _ h).symm⟩

theorem sameLane_readClock (k : Chan) (s : State) : SameLane k s (readClock s) := ⟨rfl, rfl, rfl⟩

theorem sameLane_emit (k : Chan) (r : Report) (s : State) : SameLane k s (emit r s) := ⟨rfl, rfl, rfl⟩

theorem sameLane_setSweep (k : Chan) (b : Bool) (n : Nat) (s : State) : SameLane k s (setSweep b n s) :=
  ⟨rfl, rfl, rfl⟩

theorem sameLane_toneOn {c k : Chan} (h : k ≠ c) (f : Freq) (s : State) : SameLane k s (toneOn c f s) :=
  sameLane_trans (sameLane_setTone h _ _) (sameLane_setPin h _ _)

theorem sameLane_stopChan {c k : Chan} (h : k ≠ c) (s : State) : SameLane k s (stopChan c s) :=
  sameLane_trans (sameLane_trans (sameLane_setTone h _ _) (sameLane_setPin h _ _)) (sameLane_setChan h _ _)

theorem sameLane_swStart {c k : Chan} (h : k ≠ c) (f : Freq) (s : State) : SameLane k s (swStart c f s) :=
  sameLane_trans (sameLane_trans (sameLane_readClock k s) (sameLane_setChan h _ _)) (sameLane_setPin h _ _)

theorem sameLane_genStart {c k : Chan} (h : k ≠ c) (f : Freq) (s : State) : SameLane k s (genStart c f s) := by
  unfold genStart
  split
  · exact sameLane_trans (sameLane_setChan h _ _) (sameLane_toneOn h _ _)
  · exact sameLane_trans (sameLane_setChan h _ _) (sameLane_swStart h _ _)

theorem sameLane_playNote {c k : Chan} (h : k ≠ c) (f : Freq) (d : U32) (v : U8) (s : State) :
    SameLane k s (playNote c f d v s) :=
  sameLane_trans (sameLane_trans (sameLane_trans (sameLane_trans (sameLane_stopChan h s)
    (sameLane_readClock k _)) (sameLane_setChan h _ _)) (sameLane_genStart h _ _)) (sameLane_emit k _ _)

theorem sameLane_cancelSweep (k : Chan) (s : State) : SameLane k s (cancelSweep s) := by
  unfold cancelSweep
  split
  · exact ⟨rfl, rfl, rfl⟩
  · exact sameLane_refl k s

theorem sameLane_cancelSweepFor (c k : Chan) (s : State) : SameLane k s (cancelSweepFor c s) := by
  cases c
  · exact sameLane_cancelSweep k s
  · exact sameLane_refl k s

theorem sameLane_swToggle {c k : Chan} (h : k ≠ c) (s : State) : SameLane k s (swToggle c s) :=
  sameLane_trans (sameLane_readClock k s) (sameLane_setChan h _ _)

theorem sameLane_swOutput {c k : Chan} (h : k ≠ c) (s : State) : SameLane k s (swOutput c s) :=
  sameLane_trans (sameLane_readClock k s) (sameLane_setPin h _ _)

theorem sameLane_swAdvance {c k : Chan} (h : k ≠ c) (s : State) : SameLane k s (swAdvance c s) := by
  simp only [swAdvance]
  split
  · exact sameLane_trans (sameLane_trans (sameLane_readClock k s) (sameLane_swToggle h _)) (sameLane_swOutput h _)
  · exact sameLane_trans (sameLane_readClock k s) (sameLane_swOutput h _)

theorem sameLane_genAdvance {c k : Chan} (h : k ≠ c) (s : State) : SameLane k s (genAdvance c s) := by
  have hset := sameLane_trans (sameLane_readClock k s)
    (sameLane_setChan h (fun r => { r with appliedVolume := envelopeOutput (readClock s) c }) (readClock s))
  simp only [genAdvance]
  split
  · split
    · exact sameLane_trans hset (sameLane_swAdvance h _)
    · exact hset
    · exact hset
  · exact sameLane_refl k s

theorem sameLane_enterRelease {c k : Chan} (h : k ≠ c) (s : State) : SameLane k s (enterRelease c s) :=
  sameLane_trans (sameLane_readClock k s) (sameLane_setChan h _ _)

theorem sameLane_transitionCheck {c k : Chan} (h : k ≠ c) (s : State) :
    SameLane k s (transitionCheck c s) := by
  simp only [transitionCheck]
  split
  · split
    · exact sameLane_trans (sameLane_readClock k s) (sameLane_stopChan h _)
    · split
      · exact sameLane_trans (sameLane_readClock k s) (sameLane_enterRelease h _)
      · split
        · exact sameLane_trans (sameLane_readClock k s) (sameLane_setChan h _ _)
        · exact sameLane_readClock k s
  · exact sameLane_refl k s

theorem sameLane_sweepAdvance (s : State) : SameLane .right s (sweepAdvance s) := by
  unfold sweepAdvance
  split
  · exact sameLane_trans (sameLane_setSweep _ _ _ _) (sameLane_playNote (by decide) _ _ _ _)
  · exact ⟨rfl, rfl, rfl⟩

theorem sameLane_sweepStep (s : State) : SameLane .right s (sweepStep s) := by
  unfold sweepStep
  split
  · exact sameLane_sweepAdvance s
  · exact sameLane_refl _ s

/-! The clock never runs back, and stands still under PerPass. -/

/-- Time and draw counter after an operation: not less than before, and as before under PerPass. -/
abbrev ClockOk (s t : State) : Prop :=
  t.par = s.par ∧ s.time ≤ t.time ∧ (PerPass s → t.time = s.time ∧ t.draws = s.draws)

theorem clockOk_refl (s : State) : ClockOk s s := ⟨rfl, le_refl _, fun _ => ⟨rfl, rfl⟩⟩

theorem clockOk_trans {s t u : State} (h : ClockOk s t) (h' : ClockOk t u) : ClockOk s u :=
  ⟨h'.1.trans h.1, h.2.1.trans h'.2.1, fun p => by
    have q : PerPass t := by simpa [PerPass, h.1] using p
    exact ⟨(h'.2.2 q).1.trans (h.2.2 p).1, (h'.2.2 q).2.trans (h.2.2 p).2⟩⟩

theorem clockOk_readClock (s : State) : ClockOk s (readClock s) :=
  ⟨rfl, time_le_readClock s, fun h => by rw [readClock_perPass h]; exact ⟨rfl, rfl⟩⟩

/-- An operation that writes neither clock nor parameters keeps the clock. -/
theorem clockOk_of_eq {s t : State} (hp : t.par = s.par) (ht : t.time = s.time) (hd : t.draws = s.draws) :
    ClockOk s t := ⟨hp, ht.ge, fun _ => ⟨ht, hd⟩⟩

theorem clockOk_genStart (c : Chan) (f : Freq) (s : State) : ClockOk s (genStart c f s) := by
  unfold genStart
  split
  · exact clockOk_of_eq rfl rfl rfl
  · exact clockOk_trans (clockOk_of_eq rfl rfl rfl)
      (clockOk_trans (clockOk_readClock _) (clockOk_of_eq rfl rfl rfl))

theorem clockOk_playNote (c : Chan) (f : Freq) (d : U32) (v : U8) (s : State) :
    ClockOk s (playNote c f d v s) :=
  clockOk_trans (clockOk_of_eq (t := stopChan c s) rfl rfl rfl) (clockOk_trans (clockOk_readClock _)
    (clockOk_trans (clockOk_trans (clockOk_of_eq rfl rfl rfl) (clockOk_genStart c (clampFreq f)
      (setChan c (startNote (clampFreq f) (nowMs (readClock (stopChan c s))) d v) (readClock (stopChan c s)))))
      (clockOk_of_eq rfl rfl rfl)))

theorem clockOk_cancelSweep (s : State) : ClockOk s (cancelSweep s) :=
  clockOk_of_eq (by simp) (by simp) (by simp)

theorem clockOk_cancelSweepFor (c : Chan) (s : State) : ClockOk s (cancelSweepFor c s) :=
  clockOk_of_eq (by simp) (by simp) (by simp)

theorem clockOk_swAdvance (c : Chan) (s : State) : ClockOk s (swAdvance c s) := by
  simp only [swAdvance]
  refine clockOk_trans (clockOk_readClock s) ?_
  split
  · exact clockOk_trans (clockOk_trans (clockOk_readClock _) (clockOk_of_eq rfl rfl rfl))
      (clockOk_trans (clockOk_readClock _) (clockOk_of_eq rfl rfl rfl))
  · exact clockOk_trans (clockOk_readClock _) (clockOk_of_eq rfl rfl rfl)

theorem clockOk_genAdvance (c : Chan) (s : State) : ClockOk s (genAdvance c s) := by
  simp only [genAdvance]
  split
  · split
    · exact clockOk_trans (clockOk_readClock s) (clockOk_trans (clockOk_of_eq rfl rfl rfl) (clockOk_swAdvance c _))
    · exact clockOk_trans (clockOk_readClock s) (clockOk_of_eq rfl rfl rfl)
    · exact clockOk_trans (clockOk_readClock s) (clockOk_of_eq rfl rfl rfl)
  · exact clockOk_refl s

theorem clockOk_transitionCheck (c : Chan) (s : State) : ClockOk s (transitionCheck c s) := by
  simp only [transitionCheck]
  split
  · refine clockOk_trans (clockOk_readClock s) ?_
    split
    · exact clockOk_of_eq rfl rfl rfl
    · split
      · exact clockOk_trans (clockOk_readClock _) (clockOk_of_eq rfl rfl rfl)
      · split
        · exact clockOk_of_eq rfl rfl rfl
        · exact clockOk_refl _
  · exact clockOk_refl s

theorem clockOk_sweepAdvance (s : State) : ClockOk s (sweepAdvance s) := by
  unfold sweepAdvance
  split
  · exact clockOk_trans (clockOk_of_eq rfl rfl rfl) (clockOk_playNote _ _ _ _ _)
  · exact clockOk_of_eq rfl rfl rfl

theorem clockOk_sweepStep (s : State) : ClockOk s (sweepStep s) := by
  unfold sweepStep
  split
  · exact clockOk_sweepAdvance s
  · exact clockOk_refl s

theorem clockOk_phasesBeforeCommand (s : State) : ClockOk s (phasesBeforeCommand s) :=
  clockOk_trans (clockOk_genAdvance _ _) (clockOk_trans (clockOk_genAdvance _ _)
    (clockOk_trans (clockOk_transitionCheck _ _) (clockOk_trans (clockOk_transitionCheck _ _)
      (clockOk_sweepStep _))))

/-! Play, under any clock sampling. -/

/-- The record that Play leaves: that of one clock sample per pass, but for the two times that it reads. -/
theorem chanAt_playNote (c : Chan) (f : Freq) (d : U32) (v : U8) (s : State) :
    chanAt (playNote c f d v s) c = { playedChannel s c (clampFreq f) d v with
      noteStartTime := nowMs (readClock s)
      lastToggleTime := if aboveThreshold (clampFreq f) then (chanAt s c).lastToggleTime
        else nowUs (readClock (readClock s)) } := by
  unfold playNote
  simp only [genStart]
  split
  · next ha =>
    cases c <;>
      simp [playedChannel, ha, emit, toneOn, setPin, setTone, setChan, stopChan, genStop, toneOff, startNote,
        chanAt, PerChan.get, PerChan.set, readClock, nowMs, clockGapBefore]
  · next ha =>
    cases c <;>
      simp [playedChannel, ha, emit, swStart, setPin, setTone, setChan, stopChan, genStop, toneOff, startNote,
        chanAt, PerChan.get, PerChan.set, readClock, nowMs, nowUs, clockGapBefore, clockDraws]

theorem pin_playNote (c : Chan) (f : Freq) (d : U32) (v : U8) (s : State) :
    (playNote c f d v s).pin.get c =
      if aboveThreshold (clampFreq f) then .toneWave (clampFreq f) else .level false := by
  unfold playNote
  simp only [genStart]
  split <;> simp [toneOn, swStart]

theorem tone_playNote (c : Chan) (f : Freq) (d : U32) (v : U8) (s : State) :
    (playNote c f d v s).tone.get c =
      if aboveThreshold (clampFreq f) then ⟨true, clampFreq f⟩ else ⟨false, (s.tone.get c).freq⟩ := by
  unfold playNote
  simp only [genStart]
  split <;> simp [toneOn, swStart, stopChan, genStop, toneOff]

@[simp] theorem playNote_tx (c : Chan) (f : Freq) (d : U32) (v : U8) (s : State) :
    (playNote c f d v s).tx = s.tx ++ [.echo c (clampFreq f) d v] := by
  simp [playNote]

end Sys2Proof.Machine
end

