-- ==== Sys2Proof/Laws/Parse.lean ====
section
/-! SUPPORT. The numeric parsers on the encoder's text: an integer and a decimal read back as they were written
(30_encoding.md R84, R85). -/

namespace Sys2Proof

/-- A digit run in front of a byte that is no digit is what `takeWhile` takes. -/
theorem takeWhile_digits {ds rest : List Byte} (h : ∀ b ∈ ds, Text.isDigit b = true)
    (hr : ∀ b, rest.head? = some b → Text.isDigit b = false) : (ds ++ rest).takeWhile Text.isDigit = ds := by
  rw [List.takeWhile_append_of_pos h]
  cases rest with
  | nil => simp
  | cons b bs => simp [hr b rfl]

theorem dropWhile_digits {ds rest : List Byte} (h : ∀ b ∈ ds, Text.isDigit b = true)
    (hr : ∀ b, rest.head? = some b → Text.isDigit b = false) : (ds ++ rest).dropWhile Text.isDigit = rest := by
  rw [List.dropWhile_append_of_pos h]
  cases rest with
  | nil => simp
  | cons b bs => simp [hr b rfl]

/-- A digit is neither a blank nor a sign nor the point. -/
theorem digit_ne {b : Byte} (h : Text.isDigit b = true) :
    Text.isBlank b = false ∧ b ≠ Text.plus ∧ b ≠ Text.minus ∧ b ≠ Text.dot := by
  refine ⟨?_, ?_, ?_, ?_⟩
  · cases hb : Text.isBlank b with
    | false => rfl
    | true =>
      simp only [Text.isBlank, Bool.or_eq_true, beq_iff_eq] at hb
      rcases hb with rfl | rfl <;> exact absurd h (by decide)
  all_goals rintro rfl; exact absurd h (by decide)

/-- Skipping blanks and taking the sign of a signed number: nothing is skipped, the sign is read. -/
theorem takeSign_signText {negative : Bool} {l : List Byte} (hne : l ≠ [])
    (h : ∀ b, l.head? = some b → Text.isDigit b = true) :
    Text.takeSign ((signText negative ++ l).dropWhile Text.isBlank) = (negative, l) := by
  cases l with
  | nil => exact absurd rfl hne
  | cons b bs =>
    have hb := digit_ne (h b rfl)
    cases negative
    · simp [signText, hb.1, Text.takeSign, hb.2.1, hb.2.2.1]
    · have : Text.isBlank Text.minus = false := by decide
      simp [signText, this, Text.takeSign]

theorem head_natText (n : Nat) (l : List Byte) (b : Byte) (h : (natText n ++ l).head? = some b) :
    Text.isDigit b = true := by
  obtain ⟨c, cs, hc⟩ := List.exists_cons_of_ne_nil (natText_ne_nil n)
  rw [hc] at h
  rw [← Option.some.inj h]
  exact isDigit_natText n c (by rw [hc]; simp)

theorem applySign_natAbs (x : Int) : Text.applySign (decide (x < 0)) x.natAbs = x := by
  unfold Text.applySign
  by_cases h : x < 0
  · simp only [h, decide_true, if_true]; omega
  · simp only [h, decide_false, Bool.false_eq_true, if_false]; omega

theorem sat32s_of_okInt {x : Int} (h : okInt (some x) = true) : Text.sat32s x = x := by
  have := of_decide_eq_true h
  unfold Text.sat32s; omega

/-- The integer parser reads what the encoder writes. -/
theorem intParse_intText {x : Option Int} (h : okInt x = true) : Text.intParse (intText x) = x := by
  cases x with
  | none => rfl
  | some x =>
    have hs := takeSign_signText (negative := decide (x < 0)) (natText_ne_nil x.natAbs)
      (fun b hb => head_natText x.natAbs [] b (by simpa using hb))
    have ht : (natText x.natAbs).takeWhile Text.isDigit = natText x.natAbs := by
      simpa using takeWhile_digits (rest := []) (isDigit_natText x.natAbs) (by simp)
    simp only [Text.intParse, intText, hs, ht, natText_ne_nil, if_false, decimal_natText, applySign_natAbs,
      sat32s_of_okInt h]

/-- An okDecimal rational is its scaled numerator over its power of ten. -/
theorem mkRat_scaled {q : Rat} (h : okDecimal q = true) :
    mkRat (Text.applySign (decide (q.num < 0)) (q.num.natAbs * 10 ^ q.den.log2 / q.den)) (10 ^ q.den.log2) = q := by
  obtain ⟨m, hm⟩ := Nat.dvd_of_mod_eq_zero (beq_iff_eq.1 h)
  have hd : 0 < q.den := q.den_pos
  have hm0 : m ≠ 0 := by rintro rfl; simp at hm
  have e : q.num.natAbs * 10 ^ q.den.log2 / q.den = q.num.natAbs * m := by
    rw [hm, Nat.mul_left_comm, Nat.mul_div_cancel_left _ hd]
  have e2 : Text.applySign (decide (q.num < 0)) (q.num.natAbs * m) = q.num * m := by
    unfold Text.applySign
    by_cases hn : q.num < 0
    · simp [hn, abs_of_neg hn]
    · simp [hn, abs_of_nonneg (not_lt.1 hn)]
  rw [e, e2, hm, Rat.mkRat_mul_right hm0, Rat.mkRat_self]

/-- The frequency parser reads what the encoder writes. -/
theorem floatParse_ratText {q : Rat} (h : okDecimal q = true) : Text.floatParse (ratText q) = some q := by
  have hk := mkRat_scaled h
  simp only [ratText]
  generalize q.den.log2 = k at hk ⊢
  generalize decide (q.num < 0) = negative at hk ⊢
  generalize q.num.natAbs * 10 ^ k / q.den = m at hk ⊢
  rw [List.append_assoc]
  have hs := fun l => takeSign_signText (negative := negative) (l := natText (m / 10 ^ k) ++ l)
    (by simp [natText_ne_nil]) (head_natText _ l)
  simp only [Text.floatParse, hs]
  have hr : ∀ b, (if k = 0 then ([] : List Byte) else Text.dot :: fixedDigits k m).head? = some b →
      Text.isDigit b = false := by
    intro b hb; split at hb
    · cases hb
    · rw [← Option.some.inj hb]; decide
  rw [takeWhile_digits (isDigit_natText _) hr, dropWhile_digits (isDigit_natText _) hr]
  have hf : Text.fractionDigits (if k = 0 then ([] : List Byte) else Text.dot :: fixedDigits k m) = fixedDigits k m := by
    by_cases hk0 : k = 0
    · subst hk0; rfl
    · simpa [hk0, Text.fractionDigits] using
        takeWhile_digits (rest := []) (isDigit_fixedDigits k m) (by simp)
  rw [hf]
  simp [natText_ne_nil, decimal_natText_fixedDigits, hk]

theorem floatParse_freqText {f : Option Rat} (h : okFreq f = true) : Text.floatParse (freqText f) = f := by
  cases f with
  | none => rfl
  | some q => exact floatParse_ratText h

end Sys2Proof
end

