-- ==== Sys2Proof/Laws/PerInstr.lean ====
section
/-! SUPPORT. The statement about every instruction, one lemma per constructor: an encoded instruction is one line, so
the LF that the Host sends after it ends exactly it (20_memory.md R63, 30_encoding.md R80). -/

namespace Sys2Proof.Laws.EncodedLine

/-- No byte of the encoded instruction is an LF. -/
def Statement (i : Instr) : Prop := WellFormed i → Text.lf ∉ encode i

theorem freq (f : Option Rat) (d c v : Option Int) : Statement (.freq f d c v) := by
  intro _
  refine lf_not_mem_joinFields (by decide) ?_
  simpa using ⟨numberByte_freqText f, numberByte_intText d, numberByte_intText c, numberByte_intText v⟩

theorem note (n d c v : Option Int) : Statement (.note n d c v) := by
  intro _
  refine lf_not_mem_joinFields (by decide) ?_
  simpa using ⟨numberByte_intText n, numberByte_intText d, numberByte_intText c, numberByte_intText v⟩

theorem chord (n1 n2 d : Option Int) : Statement (.chord n1 n2 d) := by
  intro _
  refine lf_not_mem_joinFields (by decide) ?_
  simpa using ⟨numberByte_intText n1, numberByte_intText n2, numberByte_intText d⟩

theorem mono (n d : Option Int) : Statement (.mono n d) := by
  intro _
  refine lf_not_mem_joinFields (by decide) ?_
  simpa using ⟨numberByte_intText n, numberByte_intText d⟩

theorem legacy (f : Rat) (d : Option Int) : Statement (.legacy f d) := by
  intro _
  refine lf_not_mem_joinFields (fun h => numberByte_ne_lf (numberByte_ratText f _ h) rfl) ?_
  simpa using numberByte_intText d

theorem volume (v c : Option Int) : Statement (.volume v c) := by
  intro _
  refine lf_not_mem_joinFields (by decide) ?_
  simpa using ⟨numberByte_intText v, numberByte_intText c⟩

theorem stop (c : Option Int) : Statement (.stop c) := by
  intro _
  refine lf_not_mem_joinFields (by decide) ?_
  simpa using numberByte_intText c

theorem status : Statement .status := by intro _; decide

theorem test : Statement .test := by intro _; decide

theorem unknown (line : List Byte) : Statement (.unknown line) := by
  intro h
  simp only [WellFormed, Instr.wellFormed, okUnknown, Bool.and_eq_true, Bool.not_eq_true', bne_iff_ne,
    beq_iff_eq] at h
  simpa [encode] using h.1.1.2

theorem empty : Statement .empty := by intro _; decide

end Sys2Proof.Laws.EncodedLine
end

