-- ==== Sys2Proof/Tests/Slice0.lean ====
section
/-! SUPPORT. Tests against the spec's vectors (95_test_vectors.md, instance E0 of its section 0), the smoke test of
WellFormed, and a named witness for the hypotheses of every obligation that has some. -/

namespace Sys2Proof.Tests

open Sys2Proof.Machine

/-! ## Helpers -/

/-- The example instance E0 of 95_test_vectors.md section 0. -/
def e0 : Params where
  attackTime := 10
  releaseTime := 50
  volumeReset := 128
  testSweep := [⟨.hz 20, 100⟩, ⟨.hz 1000, 100⟩, ⟨.hz 8000, 100⟩]
  dutyShape := .standard
  toneMap := .identity
  freqMap := .exact
  lineMax := none
  rxCapacity := 64
  clockSampling := .perPass

/-- The reset state of E0 at `ms` milliseconds, with an empty agenda. -/
def base (ms : Nat) : State :=
  { State.reset with
    ch := ⟨{ resetChannel with volumeChannelDefault := 128 }, { resetChannel with volumeChannelDefault := 128 }⟩
    time := 1000 * ms, par := e0, agenda := [] }

/-- `s` at a later time. -/
def later (ms : Nat) (s : State) : State := { s with time := 1000 * ms }

/-- E0 with channel `c` started on `f` Hz for `d` ms at 1000 ms. -/
def playing (c : Chan) (f : Rat) (d : Nat) : State := playNote c (.hz f) (BitVec.ofNat 32 d) 128 (base 1000)

/-- E0 with the TEST sweep at its entry `index`, its note started at 1000 ms. -/
def sweeping (index : Nat) : State := setSweep true index (playing .left 20 100)

/-- `s` with a line and its LF in the receive stream, Dispatch moving next. -/
def withLine (line : List Byte) (s : State) : State := { s with rx := line ++ [Text.lf], agenda := [.dispatch] }

/-- `s` with Dispatch moving next. -/
def dispatching (s : State) : State := { s with agenda := [.dispatch] }

/-- The bytes of ASCII characters. -/
def ascii (cs : List Char) : List Byte := cs.map (fun c => BitVec.ofNat 8 c.toNat)

/-- The outcome is a next state that meets `p`. -/
def goesTo (o : Host.Outcome State Fault Refusal) (p : State → Bool) : Bool :=
  match o with
  | .next t => p t
  | .fault _ => false
  | .refused _ => false

/-! ## WellFormed: a well-formed term for each constructor, and an ill-formed one for each check -/

/-- A well-formed term for each constructor; it is the witness of DecodeOfEncodeIsTheInstruction as well. -/
theorem test_wellFormed_accepts :
    WellFormed (.freq (some (mkRat 881 2)) (some 2147483647) (some (-2147483648)) none)
      ∧ WellFormed (.note (some (-5)) (some 1) none none) ∧ WellFormed (.chord (some 60) (some 64) (some 500))
      ∧ WellFormed (.mono (some 81) (some 200)) ∧ WellFormed (.legacy 440 (some 300))
      ∧ WellFormed (.volume (some 300) (some 1)) ∧ WellFormed (.stop none) ∧ WellFormed .status ∧ WellFormed .test
      ∧ WellFormed (.unknown (ascii ['H', 'E', 'L', 'L', 'O'])) ∧ WellFormed .empty := by decide

theorem test_wellFormed_refuses_wide_integers :
    ¬ WellFormed (.freq none (some 2147483648) none none) ∧ ¬ WellFormed (.freq none none (some 2147483648) none)
      ∧ ¬ WellFormed (.freq none none none (some (-2147483649))) ∧ ¬ WellFormed (.note (some 2147483648) none none none)
      ∧ ¬ WellFormed (.note none (some 2147483648) none none) ∧ ¬ WellFormed (.note none none (some 2147483648) none)
      ∧ ¬ WellFormed (.note none none none (some 2147483648)) ∧ ¬ WellFormed (.chord (some 2147483648) none none)
      ∧ ¬ WellFormed (.chord none (some 2147483648) none) ∧ ¬ WellFormed (.chord none none (some 2147483648))
      ∧ ¬ WellFormed (.mono (some 2147483648) none) ∧ ¬ WellFormed (.mono none (some 2147483648))
      ∧ ¬ WellFormed (.legacy 1 (some 2147483648)) ∧ ¬ WellFormed (.volume (some 2147483648) none)
      ∧ ¬ WellFormed (.volume none (some 2147483648)) ∧ ¬ WellFormed (.stop (some 2147483648)) := by decide

theorem test_wellFormed_refuses_frequencies :
    ¬ WellFormed (.freq (some (mkRat 1 3)) none none none) ∧ ¬ WellFormed (.legacy (mkRat 1 3) none)
      ∧ ¬ WellFormed (.legacy (-1) none) := by decide

/-- The five checks of an unknown line: not empty, normalised, no LF, no keyword token, no legacy shape. -/
theorem test_wellFormed_refuses_unknown_lines :
    ¬ WellFormed (.unknown []) ∧ ¬ WellFormed (.unknown (ascii ['h', 'i']))
      ∧ ¬ WellFormed (.unknown [0x48, 0x0A, 0x49]) ∧ ¬ WellFormed (.unknown (ascii ['S', 'T', 'O', 'P', ',', '0']))
      ∧ ¬ WellFormed (.unknown (ascii ['4', '4', '0', ',', '3'])) := by decide

/-! ## Decoding: 95_test_vectors.md V1 and V2 -/

theorem test_decode_freq :
    classify (ascii [' ', ' ', 'f', 'r', 'e', 'q', ',', '4', '4', '0', ',', '3', '0', '0', '\r'])
      = .freq (some 440) (some 300) none none := by decide

theorem test_decode_note :
    classify (ascii ['N', 'O', 'T', 'E', ',', '6', '9', ',', '1', '0', '0', ',', '1', ',', '5', '0'])
      = .note (some 69) (some 100) (some 1) (some 50) := by decide

/-- An extra field is ignored, vector 3.28. -/
theorem test_decode_chord :
    classify (ascii ['C', 'H', 'O', 'R', 'D', ',', '6', '0', ',', '6', '4', ',', '5', '0', '0', ',', '1'])
      = .chord (some 60) (some 64) (some 500) := by decide

theorem test_decode_mono :
    classify (ascii ['M', 'O', 'N', 'O', ',', '8', '1', ',', '2', '0', '0']) = .mono (some 81) (some 200) := by
  decide

/-- The digit prefix is the frequency, V2. -/
theorem test_decode_legacy :
    classify (ascii ['4', 'X', ',', '1', '0', '0']) = .legacy 4 (some 100) := by decide

/-- A channel without digits is absent, vector 4.6. -/
theorem test_decode_volume :
    classify (ascii ['V', 'O', 'L', 'U', 'M', 'E', ',', '1', '0', '0', ',', 'X']) = .volume (some 100) none := by
  decide

theorem test_decode_stop : classify (ascii ['S', 'T', 'O', 'P', ',', '0']) = .stop (some 0) := by decide

theorem test_decode_status :
    classify (ascii ['S', 'T', 'A', 'T', 'U', 'S', ',', 'E', 'X', 'T', 'R', 'A']) = .status := by decide

theorem test_decode_test : classify (ascii ['t', 'e', 's', 't']) = .test := by decide

/-- A first byte that is no digit, two commas, and a space inside the token, V2. -/
theorem test_decode_unknown :
    classify (ascii ['-', '5', ',', '1', '0', '0']) = .unknown (ascii ['-', '5', ',', '1', '0', '0'])
      ∧ classify (ascii ['4', '4', '0', ',', '3', ',', '1']) = .unknown (ascii ['4', '4', '0', ',', '3', ',', '1'])
      ∧ classify (ascii ['f', 'r', 'e', 'q', ' ', ',', '4']) = .unknown (ascii ['F', 'R', 'E', 'Q', ' ', ',', '4']) := by
  decide

theorem test_decode_empty : classify [] = .empty ∧ classify [0x20, 0x20, 0x20, 0x0D] = .empty := by decide

/-- V1: saturation, no digit right after the sign, no exponent. -/
theorem test_intParse :
    Text.intParse (ascii ['9', '9', '9', '9', '9', '9', '9', '9', '9', '9', '9']) = some 2147483647
      ∧ Text.intParse (ascii ['-', '9', '9', '9', '9', '9', '9', '9', '9', '9', '9', '9']) = some (-2147483648)
      ∧ Text.intParse (ascii [' ', '-', ' ', '5']) = none ∧ Text.intParse (ascii ['1', '.', '5']) = some 1 := by
  decide

theorem test_floatParse :
    Text.floatParse (ascii ['.', '5']) = some (mkRat 1 2) ∧ Text.floatParse (ascii ['.']) = none
      ∧ Text.floatParse (ascii ['1', 'E', '3']) = some 1 ∧ Text.floatParse (ascii ['-', '7']) = some (-7) := by
  decide

/-- LINE_MAX counts the raw bytes without the LF, V2's last row. -/
theorem test_decode_refuses_a_long_line :
    decode (some 3) [0x54, 0x45, 0x53, 0x54] = .error .lineTooLong ∧ decode (some 4) [0x54, 0x45, 0x53, 0x54] = .ok .test := by
  decide

/-- The bytes of a table word, first byte lowest: `STOP`, and `TEST` with a word of zeros above it. -/
theorem test_decodeTableWord :
    decodeTableWord 32 0x504F5453 = some (.stop none) ∧ decodeTableWord 32 0x54534554 = some .test
      ∧ decodeTableWord 0 0 = some .empty := by decide

theorem test_withFetchWord :
    goesTo (step ((base 0).withFetchWord 32 0x504F5453)) (fun t => t.tx == [.banner, .stopAck [.left, .right]])
      = true := by decide

/-! ## The commands: 95_test_vectors.md X3 to X9, V3, V4 -/

/-- Vector 3.1. -/
theorem test_freq_software :
    goesTo (exec (.freq (some 440) (some 300) none none) (base 1000)) (fun t =>
      (chanAt t .left).toggleIntervalMicros == 1136 && (chanAt t .left).lastToggleTime == 1000000
        && t.tx == [.banner, .echo .left (.hz 440) 300 128]) = true := by decide

/-- Vectors 3.5 and 3.7: clamped to 8000 Hz, and just above the threshold. -/
theorem test_freq_hardware :
    goesTo (exec (.freq (some 9000) (some 100) none none) (base 1000)) (fun t =>
      t.tone.left == ⟨true, .hz 8000⟩ && t.pin.left == .toneWave (.hz 8000)) = true
    ∧ goesTo (exec (.freq (some (mkRat 2001 2)) (some 100) none none) (base 1000)) (fun t =>
      t.pin.left == .toneWave (.hz (mkRat 2001 2))) = true := by decide

/-- Vectors 3.21 and 3.22: the notes at the edges of the clamp and of the threshold. -/
theorem test_note_edges :
    goesTo (exec (.note (some 16) (some 100) none none) (base 1000)) (fun t =>
      (chanAt t .left).toggleIntervalMicros == 24269) = true
    ∧ goesTo (exec (.note (some 83) (some 100) none none) (base 1000)) (fun t =>
      (chanAt t .left).toggleIntervalMicros == 506) = true
    ∧ goesTo (exec (.note (some 84) (some 100) none none) (base 1000)) (fun t =>
      t.pin.left == .toneWave (.note 84)) = true := by decide +kernel

/-- Vector 3.19: note 69 is 440 Hz exactly, on channel 1 at volume 50. -/
theorem test_note_a4 :
    goesTo (exec (.note (some 69) (some 100) (some 1) (some 50)) (base 1000)) (fun t =>
      t.tx == [.banner, .echo .right (.hz 440) 100 50]) = true := by decide

/-- 00_scope.md R19: a machine with another FREQ_MAP maps the note with it. -/
theorem test_note_other_map :
    noteOperand { base 0 with par := { e0 with freqMap := .other 3 } } (some 69) = .free (.mapped 3 69) := by decide

/-- X6: the intervals of both notes, and one start time. -/
theorem test_chord :
    goesTo (exec (.chord (some 60) (some 64) (some 500)) (base 10)) (fun t =>
      (chanAt t .left).toggleIntervalMicros == 1911 && (chanAt t .right).toggleIntervalMicros == 1516
        && (chanAt t .left).noteStartTime == 10 && (chanAt t .right).noteStartTime == 10) = true := by decide +kernel

/-- Vector 3.30. -/
theorem test_mono :
    goesTo (exec (.mono (some 81) (some 200)) (base 1000)) (fun t =>
      (chanAt t .right).toggleIntervalMicros == 568
        && t.tx == [.banner, .echo .left (.hz 880) 200 128, .echo .right (.hz 880) 200 128]) = true := by decide

/-- Vector 3.35: the sweep is cancelled before the note starts. -/
theorem test_legacy :
    goesTo (exec (.legacy 440 (some 300)) (setSweep true 1 (base 1000))) (fun t =>
      !t.sweepActive && t.tx == [.banner, .testEnd false, .echo .left (.hz 440) 300 128]) = true := by decide

/-- Vectors 4.1 and 4.3. -/
theorem test_volume :
    goesTo (exec (.volume (some 200) (some 1)) (base 0)) (fun t =>
      (chanAt t .right).volumeChannelDefault == 200 && (chanAt t .left).volumeChannelDefault == 128) = true
    ∧ goesTo (exec (.volume (some 300) none) (base 0)) (fun t =>
      (chanAt t .left).volumeChannelDefault == 255 && t.tx == [.banner, .volumeAck [.left, .right] 255]) = true := by
  decide

/-- 44_waveform_generator.md R209: a stop takes a hardware tone off its pin. -/
theorem test_stop :
    goesTo (exec (.stop (some 1)) (playing .right 8000 100)) (fun t =>
      t.pin.right == .level false && !t.tone.right.enabled && !(chanAt t .right).isPlaying
        && (chanAt t .right).noteDuration == 100) = true := by decide

/-- 41_control_commands.md R142's example: 200 ms remain of 300 after 100. -/
theorem test_status :
    goesTo (exec .status (later 1100 (playing .left 440 300))) (fun t =>
      t.tx.getLast? == some (.status ⟨"Left", 128, .playing (.hz 440) 200⟩ ⟨"Right", 128, .idle⟩)) = true := by
  decide

/-- 41_control_commands.md R143: the first entry of the sweep plays. -/
theorem test_test :
    goesTo (exec .test (base 0)) (fun t =>
      t.sweepActive && t.sweepIndex == 1 && t.tx == [.banner, .testStart, .echo .left (.hz 20) 100 128]) = true := by
  decide

/-! ## The phases of a pass -/

/-- X5: the short note enters Release in the pass at 1001 ms with its attack value, and ends at 1040 ms. -/
theorem test_short_note :
    (chanAt (phasesBeforeCommand (later 1001 (playing .left 440 40))) .left).releaseStartVolume = 12
      ∧ (chanAt (phasesBeforeCommand (later 1040 (playing .left 440 40))) .left).envelope = .idle := by decide

/-- 45_envelope_scheduler.md R231's example: 200 at 20 of 50 ms gives 120. -/
theorem test_releaseRamp : releaseRamp 50 200 20 = 120 ∧ releaseRamp 50 200 50 = 0 := by decide

/-- 45_envelope_scheduler.md R232's example. -/
theorem test_attackRamp : attackRamp 10 255 4 = 102 := by decide

/-- 44_waveform_generator.md R204: the toggle comes at 1136 µs, not at 1135. -/
theorem test_toggle :
    (chanAt (genAdvance .left { playing .left 440 300 with time := 1001136 }) .left).pinLevel = true
      ∧ (chanAt (genAdvance .left { playing .left 440 300 with time := 1001135 }) .left).pinLevel = false := by
  decide

/-- 41_control_commands.md R145: the next sweep note starts in the pass in which the first one expires. -/
theorem test_sweep_goes_on :
    (phasesBeforeCommand (later 1100 (sweeping 1))).tx.getLast? = some (.echo .left (.hz 1000) 100 128) := by
  decide

/-! ## Witnesses: every statement with hypotheses has a case that meets them -/

theorem witness_DecodedInstructionIsWellFormed :
    Text.lf ∉ ascii ['S', 'T', 'O', 'P'] ∧ decode (some 4) (ascii ['S', 'T', 'O', 'P']) = .ok (.stop none) := by
  decide

theorem witness_BlanksAroundAndCaseDoNotMatter :
    (∀ b ∈ [Text.sp, Text.ht, Text.cr], b = Text.sp ∨ b = Text.ht ∨ b = Text.cr)
      ∧ classify ([Text.sp, Text.ht] ++ ascii ['s', 't', 'o', 'p'] ++ [Text.cr]) = .stop none := by decide

theorem witness_TokenMatchIsExact :
    Text.kwStop ∈ Text.keywords ∧ Text.token (Text.kwStop ++ Text.comma :: [0x30]) = Text.kwStop
      ∧ Text.token (ascii ['S', 'T', 'O', 'P', 'A', 'L', 'L']) ≠ Text.kwStop := by decide

/-- Each keyword with its optional fields left out or with a field too many, in lower case where it is a play command;
then the legacy shape, two commas, a token that is no keyword, and a blank line. The first raw line has LINE_MAX bytes. -/
theorem witness_LinesDecodeByTheirTokenAndFields :
    (∀ m, some 12 = some m → (ascii ['f', 'r', 'e', 'q', ',', '4', '4', '0', ',', '3', '0', '0']).length ≤ m)
      ∧ (∀ f ∈ [Text.kwFreq, ascii ['4', '4', '0'], ascii ['3', '0', '0']], Text.comma ∉ f)
      ∧ Text.normalize (ascii ['f', 'r', 'e', 'q', ',', '4', '4', '0', ',', '3', '0', '0'])
        = fieldLine Text.kwFreq [ascii ['4', '4', '0'], ascii ['3', '0', '0']]
      ∧ Text.normalize (ascii ['n', 'o', 't', 'e', ',', '6', '9', ',', '5'])
        = fieldLine Text.kwNote [ascii ['6', '9'], ascii ['5']]
      ∧ Text.normalize (ascii ['c', 'h', 'o', 'r', 'd', ',', '1', ',', '2', ',', '3', ',', '4'])
        = fieldLine Text.kwChord [ascii ['1'], ascii ['2'], ascii ['3'], ascii ['4']]
      ∧ Text.normalize (ascii ['m', 'o', 'n', 'o']) = fieldLine Text.kwMono []
      ∧ Text.normalize (ascii ['V', 'O', 'L', 'U', 'M', 'E', ',', '9']) = fieldLine Text.kwVolume [ascii ['9']]
      ∧ Text.normalize (ascii ['S', 'T', 'O', 'P']) = fieldLine Text.kwStop []
      ∧ Text.normalize (ascii ['S', 'T', 'A', 'T', 'U', 'S', ',', 'X']) = fieldLine Text.kwStatus [ascii ['X']]
      ∧ Text.normalize (ascii ['T', 'E', 'S', 'T', ',']) = fieldLine Text.kwTest [[]]
      ∧ Text.normalize (ascii ['4', 'X', ',', '5']) = fieldLine (ascii ['4', 'X']) [ascii ['5']]
      ∧ ascii ['4', 'X'] ∉ Text.keywords
      ∧ Text.normalize (ascii ['4', ',', '3', ',', '1']) = fieldLine (ascii ['4']) [ascii ['3'], ascii ['1']]
      ∧ ascii ['4'] ∉ Text.keywords
      ∧ Text.normalize (ascii ['s', 't', 'o', 'p', 'x']) = fieldLine (ascii ['S', 'T', 'O', 'P', 'X']) []
      ∧ ascii ['S', 'T', 'O', 'P', 'X'] ∉ Text.keywords ∧ Text.normalize [Text.sp, Text.cr] = fieldLine [] [] := by
  refine ⟨?_, ?_⟩
  · intro m h; cases h; decide
  · decide

/-- Optional fields left out, R88, R89, R92, R93: the fields that stand there are read, the others are absent. -/
theorem test_decode_short_lines :
    classify (ascii ['V', 'O', 'L', 'U', 'M', 'E', ',', '2', '0', '0']) = .volume (some 200) none
      ∧ classify (ascii ['S', 'T', 'O', 'P']) = .stop none
      ∧ classify (ascii ['N', 'O', 'T', 'E', ',', '6', '9', ',', '1', '0', '0', ',', '1'])
        = .note (some 69) (some 100) (some 1) none := by decide

/-- The four parts of ` -7X`, and of ` X` for the empty run. -/
theorem witness_IntParseReadsTheSaturatedDecimal :
    (∀ b ∈ [Text.sp], b = Text.sp ∨ b = Text.ht) ∧ (∀ b ∈ ascii ['7'], Text.isDigit b = true)
      ∧ (∀ b, (ascii ['X']).head? = some b → Text.isDigit b = false
          ∧ b ≠ Text.sp ∧ b ≠ Text.ht ∧ b ≠ Text.plus ∧ b ≠ Text.minus)
      ∧ Text.intParse ([Text.sp] ++ [Text.minus] ++ ascii ['7'] ++ ascii ['X']) = some (-7)
      ∧ Text.intParse ([Text.sp] ++ [] ++ [] ++ ascii ['X']) = none := by
  refine ⟨by decide, by decide, ?_, by decide, by decide⟩
  intro b hb
  rw [← Option.some.inj hb]
  decide

/-- The parts of `-4.5X`, of `4X` and of `-.X`. -/
theorem witness_FloatParseReadsTheExactDecimal :
    (∀ b ∈ ascii ['4', '5'], Text.isDigit b = true)
      ∧ (∀ b, (ascii ['X']).head? = some b → Text.isDigit b = false
          ∧ b ≠ Text.sp ∧ b ≠ Text.ht ∧ b ≠ Text.plus ∧ b ≠ Text.minus)
      ∧ (ascii ['X']).head? ≠ some Text.dot
      ∧ Text.floatParse ([] ++ [Text.minus] ++ ascii ['4'] ++ Text.dot :: ascii ['5'] ++ ascii ['X'])
        = some (mkRat (-9) 2)
      ∧ Text.floatParse ([] ++ [] ++ ascii ['4'] ++ ascii ['X']) = some 4
      ∧ Text.floatParse ([] ++ [Text.minus] ++ Text.dot :: ascii ['X']) = none
      ∧ Text.floatParse ([] ++ [] ++ ascii ['X']) = none := by
  refine ⟨by decide, ?_, by decide, by decide, by decide, by decide, by decide⟩
  intro b hb
  rw [← Option.some.inj hb]
  decide

theorem witness_OutOfRangeChannelIsSilent : (2 : Int) ≠ 0 ∧ (2 : Int) ≠ 1 ∧ (-1 : Int) ≠ 0 ∧ (-1 : Int) ≠ 1 := by decide

theorem witness_NonPositiveDurationIsSilent :
    (∀ x : Int, (some 0 : Option Int) = some x → x ≤ 0) ∧ ∀ x : Int, (none : Option Int) = some x → x ≤ 0 := by
  constructor
  · rintro x ⟨⟩; decide
  · rintro x ⟨⟩

/-- Of FREQ and NOTE: every form of the channel operand, and the shortest and the longest duration. -/
theorem witness_FreqStartsTheNote :
    PerPass (base 0) ∧ NamesPlayChan none .left ∧ NamesPlayChan (some 0) .left ∧ NamesPlayChan (some 1) .right
      ∧ (1 : Int) ≤ 1 ∧ (1 : Int) ≤ 2147483647 ∧ (2147483647 : Int) ≤ 2147483647 := by decide

theorem witness_NoteStartsTheNote :
    PerPass (base 0) ∧ NamesPlayChan (some 1) .right ∧ (1 : Int) ≤ 100 ∧ (100 : Int) ≤ 2147483647 := by decide

/-- Of CHORD, MONO and LEGACY. -/
theorem witness_ChordStartsBothNotes : PerPass (sweeping 1) ∧ (1 : Int) ≤ 500 ∧ (500 : Int) ≤ 2147483647 := by
  decide

theorem witness_MonoStartsTheNoteOnBoth : PerPass (base 7) ∧ (1 : Int) ≤ 2147483647 := by decide

theorem witness_LegacyStartsTheNoteOnChannelZero : PerPass (base 7) ∧ (1 : Int) ≤ 1 ∧ (1 : Int) ≤ 2147483647 := by
  decide

/-- Each play command carried out, and each way not to be. -/
theorem witness_PlayCommandLeavesItsTargetPlaying :
    CarriesOut (.freq none (some 1) (some 1) none) .right 1 ∧ CarriesOut (.note none (some 1) none none) .left 1
      ∧ CarriesOut (.chord none none (some 1)) .right 1 ∧ CarriesOut (.mono none (some 2147483647)) .left 2147483647
      ∧ CarriesOut (.legacy 440 (some 1)) .left 1
      ∧ (IsPlayCommand (.freq none (some 1) (some 2) none) ∧ ∀ k d, ¬ CarriesOut (.freq none (some 1) (some 2) none) k d)
      ∧ IsPlayCommand (.mono none (some 0)) ∧ ∀ k d, ¬ CarriesOut (.mono none (some 0)) k d := by
  refine ⟨?_, ?_, ?_, ?_, ?_, ⟨trivial, ?_⟩, trivial, ?_⟩
  · exact ⟨rfl, by decide, by decide⟩
  · exact ⟨rfl, by decide, by decide⟩
  · exact ⟨rfl, by decide⟩
  · exact ⟨rfl, by decide⟩
  · exact ⟨rfl, by decide, rfl⟩
  · rintro k d ⟨-, -, h⟩; simp [NamesPlayChan] at h
  · rintro k d ⟨h, h1⟩; have := Option.some.inj h; omega

/-- Both named channels and an out-of-range one; of STOP the same. -/
theorem witness_VolumeSetsTheDefaults :
    (((0 : Int) = 0 ∧ Chan.left = .left) ∨ ((0 : Int) = 1 ∧ Chan.left = .right))
      ∧ (((1 : Int) = 0 ∧ Chan.right = .left) ∨ ((1 : Int) = 1 ∧ Chan.right = .right))
      ∧ (2 : Int) ≠ 0 ∧ (2 : Int) ≠ 1 := by decide

theorem witness_StopStopsItsTargets : (-1 : Int) ≠ 0 ∧ (-1 : Int) ≠ 1 := by decide

theorem witness_StopOnIdleChannelsOnlyReports :
    LaneIdle (base 5) .left ∧ LaneIdle (base 5) .right ∧ (chanAt (base 5) .left).isPlaying = false
      ∧ (chanAt (base 5) .right).isPlaying = false ∧ (base 5).sweepActive = false := by decide

theorem witness_StatusReportsBothChannels : PerPass (playing .right 440 100) := by decide

theorem witness_TestStartsTheSweep :
    PerPass (base 0) ∧ (base 0).par.testSweep = ⟨.hz 20, 100⟩ :: [⟨.hz 1000, 100⟩, ⟨.hz 8000, 100⟩] := by decide

theorem witness_VolumeThenPlayUsesTheLevel :
    (((1 : Int) = 0 ∧ Chan.right = .left) ∨ ((1 : Int) = 1 ∧ Chan.right = .right)) ∧ (1 : Int) ≤ 1 := by decide

/-- A next state of VOLUME, of UNKNOWN and of EMPTY, for the frames. -/
theorem witness_CommandsWriteOnlyTheirState :
    (∃ t, exec (.volume none none) (base 0) = .next t) ∧ (∃ t, exec (.unknown [0x48]) (base 0) = .next t)
      ∧ (∃ t, exec .empty (base 0) = .next t) ∧ PerPass (base 0) := ⟨⟨_, rfl⟩, ⟨_, rfl⟩, ⟨_, rfl⟩, by decide⟩

theorem witness_OnlyVolumeChangesTheDefault :
    (∃ t, exec (.stop none) (base 0) = .next t) ∧ ∀ v c, Instr.stop none ≠ .volume v c :=
  ⟨⟨_, rfl⟩, by rintro v c ⟨⟩⟩

theorem witness_CommandLeavesTheOtherChannel :
    (∃ t, exec (.freq none (some 1) (some 0) none) (base 0) = .next t) ∧ (∃ t, exec .test (base 0) = .next t)
      ∧ ∃ t, exec (.note none (some 1) (some 1) none) (base 0) = .next t := ⟨⟨_, rfl⟩, ⟨_, rfl⟩, ⟨_, rfl⟩⟩

/-- Dispatch moves: with `STOP,0` as the next line, and with an empty agenda. -/
theorem witness_StepRunsTheDecodedLine :
    dispatchState (withLine (ascii ['S', 'T', 'O', 'P', ',', '0']) (base 0))
        = some { withLine (ascii ['S', 'T', 'O', 'P', ',', '0']) (base 0) with agenda := [] }
      ∧ (base 0).refused = false
      ∧ (withLine (ascii ['S', 'T', 'O', 'P', ',', '0']) (base 0)).rx
        = ascii ['S', 'T', 'O', 'P', ',', '0'] ++ Text.lf :: []
      ∧ Text.lf ∉ ascii ['S', 'T', 'O', 'P', ',', '0']
      ∧ decode e0.lineMax (ascii ['S', 'T', 'O', 'P', ',', '0']) = .ok (.stop (some 0))
      ∧ ∃ s0, dispatchState (base 0) = some s0 := by
  refine ⟨rfl, rfl, rfl, by decide, by decide, ⟨_, rfl⟩⟩

/-- A partial line in the stream: no LF. -/
theorem witness_StepWithoutALineRunsThePhases :
    (∃ s0, dispatchState { dispatching (base 0) with rx := [0x53] } = some s0) ∧ (base 0).refused = false
      ∧ Text.lf ∉ ([0x53] : List Byte) := ⟨⟨_, rfl⟩, rfl, by decide⟩

/-- A line of four bytes over a LINE_MAX of three, and the mark set. -/
theorem witness_OverlongLineEndsDispatch :
    (∃ s0, dispatchState { withLine Text.kwTest (base 0) with par := { e0 with lineMax := some 3 } } = some s0)
      ∧ Text.lf ∉ Text.kwTest ∧ 3 < Text.kwTest.length
      ∧ (∃ s0, dispatchState { dispatching (base 0) with refused := true } = some s0) :=
  ⟨⟨_, rfl⟩, by decide, by decide, ⟨_, rfl⟩⟩

/-- The stream one byte below its capacity, and at its capacity. -/
theorem witness_HostAndClockStepsChangeOnlyTheirState :
    (List.replicate 63 Text.sp).length < e0.rxCapacity ∧ e0.rxCapacity ≤ (List.replicate 64 Text.sp).length
      ∧ goesTo (step { base 0 with agenda := [.send 0x53] }) (fun t => t.rx == [0x53]) = true
      ∧ step { base 0 with agenda := [.send 0x53], rx := List.replicate 64 Text.sp } = .refused .rxOverflow
      ∧ goesTo (step { base 0 with agenda := [.read] }) (fun t => t.tx == []) = true
      ∧ goesTo (step { base 0 with agenda := [.advance 5] }) (fun t => t.time == 5) = true := by
  refine ⟨by decide, by decide, by decide, rfl, by decide, by decide⟩

theorem witness_TakeLineStopsAtTheFirstLineFeed :
    Text.lf ∉ Text.kwTest ∧ takeLine (Text.kwTest ++ Text.lf :: [Text.lf]) = some (Text.kwTest, [Text.lf]) := by decide

/-- A Dispatch step with two lines in the stream takes the first; it is a next state of a Dispatch step for
DispatchOnlyAppendsReports as well. -/
theorem witness_DispatchTakesAtMostOneLine :
    (∃ s0, dispatchState (withLine (Text.kwStop ++ Text.lf :: Text.kwTest) (base 0)) = some s0)
      ∧ goesTo (step (withLine (Text.kwStop ++ Text.lf :: Text.kwTest) (base 0)))
        (fun t => t.rx == Text.kwTest ++ [Text.lf]) = true := ⟨⟨_, rfl⟩, by decide⟩

theorem witness_DispatchOnlyAppendsReports :
    (∃ s0, dispatchState (dispatching (base 0)) = some s0)
      ∧ goesTo (step (dispatching (base 0))) (fun t => t.tx == [.banner]) = true := ⟨⟨_, rfl⟩, by decide⟩

theorem witness_QuiescentPassChangesNothing :
    (∃ s0, dispatchState (dispatching (base 9)) = some s0) ∧ (base 9).refused = false
      ∧ Quiescent (dispatching (base 9)) := ⟨⟨_, rfl⟩, rfl, by decide⟩

/-- A step into Sustain, and a step into Release. -/
theorem witness_EnvelopeMovesOnlyAlongTheTable :
    goesTo (step (dispatching (later 1010 (playing .left 440 300)))) (fun t => (chanAt t .left).envelope == .sustain)
        = true
      ∧ goesTo (step (dispatching (later 1250 (playing .left 440 300))))
        (fun t => (chanAt t .left).envelope == .release) = true := by decide

/-- One millisecond before the end of the note. -/
theorem witness_NoNoteOutlivesItsDuration :
    PerPass (dispatching (later 1299 (playing .left 440 300))) ∧ paramsOk e0 = true
      ∧ (∃ s0, dispatchState (dispatching (later 1299 (playing .left 440 300))) = some s0)
      ∧ goesTo (step (dispatching (later 1299 (playing .left 440 300)))) (fun t => (chanAt t .left).isPlaying) = true :=
  ⟨by decide, by decide, ⟨_, rfl⟩, by decide⟩

/-- The four cases of the Transition phase at their boundaries, and a channel that does not play. -/
theorem witness_TransitionFollowsItsPrecedence :
    (chanAt (base 0) .left).isPlaying = false
      ∧ (chanAt (transitionCheck .left (later 1300 (playing .left 440 300))) .left).envelope = .idle
      ∧ (chanAt (transitionCheck .left (later 1250 (playing .left 440 300))) .left).envelope = .release
      ∧ (chanAt (transitionCheck .left (later 1249 (playing .left 440 300))) .left).envelope = .sustain
      ∧ (chanAt (transitionCheck .left (later 1009 (playing .left 440 300))) .left).envelope = .attack
      ∧ PerPass (playing .left 440 300) ∧ (chanAt (playing .left 440 300) .left).isPlaying = true := by decide

/-- A channel in SoftwareToggle; the toggle due and not due are test_toggle. -/
theorem witness_SoftwareToggleFollowsItsInterval :
    PerPass (playing .left 440 300) ∧ (chanAt (playing .left 440 300) .left).isPlaying = true
      ∧ (chanAt (playing .left 440 300) .left).generatorMode = .softwareToggle := by decide

theorem witness_HardwareToneIgnoresTheVolume :
    (chanAt (base 0) .right).isPlaying = false ∧ (chanAt (playing .right 8000 300) .right).isPlaying = true
      ∧ (chanAt (playing .right 8000 300) .right).generatorMode = .hardwareTone ∧ PerPass (playing .right 8000 300) := by
  decide

/-- No sweep; a sweep whose note is over, with an entry left, and with none; then the expiry with an entry left, and with
none. -/
theorem witness_SweepGoesOnInThePassOfExpiry :
    (base 0).sweepActive = false ∧ PerPass (stopChan .left (sweeping 2))
      ∧ (stopChan .left (sweeping 2)).sweepActive = true ∧ (chanAt (stopChan .left (sweeping 2)) .left).isPlaying = false
      ∧ (stopChan .left (sweeping 2)).par.testSweep[(stopChan .left (sweeping 2)).sweepIndex]? = some ⟨.hz 8000, 100⟩
      ∧ (stopChan .left (sweeping 3)).par.testSweep[(stopChan .left (sweeping 3)).sweepIndex]? = none
      ∧ PerPass (later 1100 (sweeping 2)) ∧ (later 1100 (sweeping 2)).sweepActive = true
      ∧ (chanAt (later 1100 (sweeping 2)) .left).isPlaying = true
      ∧ (chanAt (later 1100 (sweeping 2)) .left).noteDuration.toNat ≤ elapsedMs (later 1100 (sweeping 2)) .left
      ∧ e0.testSweep[2]? = some ⟨.hz 8000, 100⟩ ∧ e0.testSweep[3]? = none := by decide

/-- Two states that differ in channel 0 only, and two that differ in channel 1 only. -/
theorem witness_PhasesKeepTheChannelsApart :
    PerPass (base 1000) ∧ (base 1000).par = (playing .left 440 300).par ∧ (base 1000).time = (playing .left 440 300).time
      ∧ SameLane .right (base 1000) (playing .left 440 300) ∧ SameLane .left (base 1000) (playing .right 440 300)
      ∧ (base 1000).sweepActive = (playing .right 440 300).sweepActive
      ∧ (base 1000).sweepIndex = (playing .right 440 300).sweepIndex := by decide

theorem witness_EnvelopeRampsAreLinear :
    ((1000 : Nat) : Int)
      = ((((playing .left 440 300).time / 1000 : Nat) : Int)
        - (chanAt (playing .left 440 300) .left).releaseStartTime.toNat) % 4294967296 := by decide

theorem witness_FrequencyMapHasItsProperties : (-1 : Int) < 0 := by decide

/-- The notes where the ranges meet. -/
theorem witness_NotesReachTheirGeneratorModes :
    clampFreq (freqMap .exact 15) = .hz 20 ∧ clampFreq (freqMap .exact 16) = .note 16
      ∧ aboveThreshold (clampFreq (freqMap .exact 83)) = false ∧ aboveThreshold (clampFreq (freqMap .exact 84)) = true
      ∧ clampFreq (freqMap .exact 119) = .note 119 ∧ clampFreq (freqMap .exact 120) = .hz 8000 := by decide

/-- 20 Hz and 1000 Hz, with their intervals. -/
theorem witness_ToggleIntervalIsTheHalfPeriod :
    20 ≤ freqReal (.hz 20) ∧ freqReal (.hz 20) ≤ 1000 ∧ 20 ≤ freqReal (.hz 1000) ∧ freqReal (.hz 1000) ≤ 1000
      ∧ toggleInterval (.hz 20) = 25000 ∧ toggleInterval (.hz 1000) = 500 := by
  refine ⟨?_, ?_, ?_, ?_, by decide, by decide⟩ <;> norm_num [freqReal]

theorem witness_DutyShapesHaveTheirProperties :
    (1 : U8).toNat ≤ (255 : U8).toNat ∧ dutyLevel .standard 1 true 0 500 = true ∧ 499 < 500
      ∧ dutyLevel .standard 255 true 499 500 = true := by decide

/-- A tone of 8000 Hz would have a half-period of 62.5 µs; one of 5000 Hz has 100 µs. -/
theorem witness_ToneWaveAlternatesEveryHalfPeriod :
    ((100 : Nat) : Rat) * 5000 = 500000 ∧ 99 < 100 ∧ toneLevel true (.hz 5000) 99 = true
      ∧ toneLevel true (.hz 5000) 100 = false := by decide +kernel

theorem witness_ToneLevelCountsHalfPeriods : 0 < freqReal (.hz 8000) ∧ toneLevel true (.hz 8000) 62 = true
    ∧ toneLevel true (.hz 8000) 63 = false := by
  refine ⟨?_, by decide, by decide⟩
  norm_num [freqReal]

/-- A tone that the timer makes of the frequency 0 has the free level. -/
theorem test_toneLevel_without_period : toneLevel true (.hz 0) 5 = Config.levelWithoutPeriod true (.hz 0) 5 :=
  if_neg (by decide)

/-- `STOP` fits into the receive stream of E0, as does a line of one byte less than its capacity. -/
theorem witness_CommandActsInTheFirstPass :
    Text.lf ∉ Text.kwStop ∧ Text.kwStop.length < e0.rxCapacity ∧ decode e0.lineMax Text.kwStop = .ok (.stop none)
      ∧ (List.replicate 63 Text.sp).length < e0.rxCapacity
      ∧ decode e0.lineMax (List.replicate 63 Text.sp) = .ok .empty := by decide

/-- A state with one software note, one hardware note and a running sweep meets the invariant, and steps. -/
theorem witness_EveryStepKeepsTheInvariant :
    StateInv (dispatching (playNote .right (.hz 8000) 100 128 (sweeping 1)))
      ∧ goesTo (step (dispatching (playNote .right (.hz 8000) 100 128 (sweeping 1)))) (fun _ => true) = true := by
  refine ⟨⟨by decide, by decide, fun _ => by decide, ⟨fun h => ?_, fun _ => by decide⟩,
    fun h => ?_, fun _ => by decide⟩, by decide⟩ <;> exact absurd h (by decide)

/-- A step from a state whose `refused` mark stands: the Clock's. -/
theorem witness_StepsKeepParametersTimeAndRefusal :
    goesTo (step { base 0 with agenda := [.advance 1], refused := true }) (fun t => t.refused) = true := by decide

end Sys2Proof.Tests
end

section
/-! The generator's mode selection (00_scope.md R8, 44_waveform_generator.md R200). -/

namespace Sys2Proof.Machine

/-- Neither the hardware timer nor the software oscillator writes the mode that `GenStart` has selected. -/
@[simp] theorem genStart_generatorMode (c : Chan) (fc : Freq) (s : State) :
    (chanAt (genStart c fc s) c).generatorMode = if aboveThreshold fc then .hardwareTone else .softwareToggle := by
  unfold genStart
  split
  · simp [toneOn]
  · simp [swStart]

/-- Settles O50: the mode follows the model's comparison, which is that of the reals (`aboveThreshold_iff`). -/
theorem hardwareToneIsAboveTheThreshold : Obligations.HardwareToneIsAboveTheThreshold := by
  intro s c fc
  rw [genStart_generatorMode, ← not_lt, ← aboveThreshold_iff]
  cases aboveThreshold fc
  case true => simp
  case false => simp

end Sys2Proof.Machine
end

section
/-! The operations that a command is made of (42_channel_state_machine.md R164): one case analysis over the instructions
from which every command keeps what every operation keeps. -/

namespace Sys2Proof.Machine

/-- The duration field of a command, 30_encoding.md R106; `none` for a command that has no such field. -/
def durationField : Instr → Option Int
  | .freq _ d _ _ => d
  | .note _ d _ _ => d
  | .chord _ _ d => d
  | .mono _ d => d
  | .legacy _ d => d
  | .volume _ _ => none
  | .stop _ => none
  | .status => none
  | .test => none
  | .unknown _ => none
  | .empty => none

/-- One operation of command `i`: a note that it plays lasts as its duration field says, and only VOLUME writes a
default volume. -/
inductive CommandOp (i : Instr) : State → State → Prop where
  | report (r : Report) (s : State) : CommandOp i s (emit r s)
  | clock (s : State) : CommandOp i s (readClock s)
  | cancel (s : State) : CommandOp i s (cancelSweep s)
  | stop (c : Chan) (s : State) : CommandOp i s (stopChan c s)
  | play (c : Chan) (f : Freq) (v : U8) (s : State) {d : U32} (hd : playDuration (durationField i) = some d) :
      CommandOp i s (playNote c f d v s)
  | setDefault (c : Chan) (v : U8) (s : State) (hi : ∃ v c, i = .volume v c) :
      CommandOp i s (setChan c (fun k => { k with volumeChannelDefault := v }) s)
  | startSweep (s : State) : CommandOp i s (setSweep true 0 s)
  | advance (s : State) : CommandOp i s (sweepAdvance s)

/-- Any number of operations of command `i`, one after another. -/
abbrev CommandOps (i : Instr) : State → State → Prop := Relation.ReflTransGen (CommandOp i)

theorem ops_cancelSweepFor (i : Instr) (c : Chan) (s : State) : CommandOps i s (cancelSweepFor c s) := by
  cases c with
  | left => exact .single (.cancel s)
  | right => exact .refl

theorem ops_playOne (i : Instr) (f : Freq) (c : Option Chan) (v : Option Int) (s : State) :
    CommandOps i s (playOne f (playDuration (durationField i)) c v s) := by
  unfold playOne
  split
  · next hd => exact (ops_cancelSweepFor i _ s).tail (.play _ _ _ _ hd)
  · exact .refl

theorem ops_playBoth (i : Instr) (f0 f1 : Freq) (s : State) :
    CommandOps i s (playBoth f0 f1 (playDuration (durationField i)) s) := by
  unfold playBoth
  split
  · exact .refl
  · next hd => exact ((Relation.ReflTransGen.single (.cancel s)).tail (.play _ _ _ _ hd)).tail (.play _ _ _ _ hd)

theorem ops_setDefaults {i : Instr} (hi : ∃ v c, i = .volume v c) (targets : List Chan) (v : U8) (s : State) :
    CommandOps i s (setDefaults targets v s) := by
  induction targets generalizing s with
  | nil => exact .refl
  | cons c cs ih => exact .head (.setDefault c v s hi) (ih _)

theorem ops_stopTargets (i : Instr) (targets : List Chan) (s : State) : CommandOps i s (stopTargets targets s) := by
  induction targets generalizing s with
  | nil => exact .refl
  | cons c cs ih => exact .head (.stop c s) (ih _)

theorem ops_readForStatus (i : Instr) (c : Chan) (s : State) : CommandOps i s (readForStatus c s) := by
  unfold readForStatus
  split
  · exact .single (.clock s)
  · exact .refl

theorem ops_execVolume (v c : Option Int) {s t : State} (h : execVolume v c s = .next t) :
    CommandOps (.volume v c) s t := by
  cases h
  split
  · exact .refl
  · exact (ops_setDefaults ⟨v, c, rfl⟩ _ _ s).tail (.report _ _)

theorem ops_execStop (c : Option Int) {s t : State} (h : execStop c s = .next t) : CommandOps (.stop c) s t := by
  cases h
  split
  · exact .refl
  · refine .tail (.trans ?_ (ops_stopTargets _ _ _)) (.report _ _)
    split
    · exact .single (.cancel s)
    · exact .refl

/-- The inversion lemma of `exec`: a command is a sequence of its operations. -/
theorem exec_ops {i : Instr} {s t : State} (h : exec i s = .next t) : CommandOps i s t := by
  cases i with
  | freq f d c v => cases h; exact ops_playOne (.freq f d c v) _ _ _ _
  | note n d c v => cases h; exact ops_playOne (.note n d c v) _ _ _ _
  | chord n1 n2 d => cases h; exact ops_playBoth (.chord n1 n2 d) _ _ _
  | mono n d => cases h; exact ops_playBoth (.mono n d) _ _ _
  | legacy f d => cases h; exact ops_playOne (.legacy f d) _ _ _ _
  | volume v c => exact ops_execVolume v c h
  | stop c => exact ops_execStop c h
  | status => cases h; exact ((ops_readForStatus _ _ _).trans (ops_readForStatus _ _ _)).tail (.report _ _)
  | test => cases h; exact .head (.startSweep s) (.head (.report _ _) (.single (.advance _)))
  | unknown line => cases h; exact .single (.report _ _)
  | empty => cases h; exact .refl

/-- What every operation of a command keeps, the command keeps. -/
theorem exec_keeps {P : State → Prop} {i : Instr} (hop : ∀ u w, CommandOp i u w → P u → P w) {s t : State}
    (h : exec i s = .next t) (hs : P s) : P t := by
  have hops := exec_ops h
  clear h
  induction hops with
  | refl => exact hs
  | tail _ op ih => exact hop _ _ op ih

end Sys2Proof.Machine
end

section
/-! What every command leaves unchanged (10_state.md R57). -/

namespace Sys2Proof.Machine

/-- What every command keeps of the receive stream, the mark, the parameters, the agents' moves, the clock and the
transmit stream. The phase is of a type with one value and needs no clause (log 14). -/
structure CommandFrame (s t : State) : Prop where
  rx : t.rx = s.rx
  refused : t.refused = s.refused
  agenda : t.agenda = s.agenda
  clock : ClockOk s t
  tx : s.tx <+: t.tx

theorem commandFrame_refl (s : State) : CommandFrame s s := ⟨rfl, rfl, rfl, clockOk_refl s, List.prefix_rfl⟩

theorem CommandFrame.trans {s t u : State} (h : CommandFrame s t) (h' : CommandFrame t u) : CommandFrame s u :=
  ⟨h'.rx.trans h.rx, h'.refused.trans h.refused, h'.agenda.trans h.agenda, clockOk_trans h.clock h'.clock,
    h.tx.trans h'.tx⟩

theorem cancelSweep_tx_prefix (s : State) : s.tx <+: (cancelSweep s).tx := by
  rw [cancelSweep_eq]
  exact List.prefix_append _ _

theorem sweepAdvance_tx_prefix (s : State) : s.tx <+: (sweepAdvance s).tx := by
  unfold sweepAdvance
  split
  · simp
  · exact List.prefix_append _ _

theorem CommandOp.frame {i : Instr} {s t : State} (h : CommandOp i s t) : CommandFrame s t := by
  cases h with
  | report r s => exact ⟨rfl, rfl, rfl, clockOk_of_eq rfl rfl rfl, List.prefix_append _ _⟩
  | clock s => exact ⟨rfl, rfl, rfl, clockOk_readClock s, List.prefix_rfl⟩
  | cancel s => exact ⟨by simp, by simp, by simp, clockOk_cancelSweep s, cancelSweep_tx_prefix s⟩
  | stop c s => exact ⟨rfl, rfl, rfl, clockOk_of_eq rfl rfl rfl, List.prefix_rfl⟩
  | play c f v s hd => exact ⟨by simp, by simp, by simp, clockOk_playNote c f _ v s, by simp⟩
  | setDefault c v s hi => exact ⟨rfl, rfl, rfl, clockOk_of_eq rfl rfl rfl, List.prefix_rfl⟩
  | startSweep s => exact ⟨rfl, rfl, rfl, clockOk_of_eq rfl rfl rfl, List.prefix_rfl⟩
  | advance s => exact ⟨by simp, by simp, by simp, clockOk_sweepAdvance s, sweepAdvance_tx_prefix s⟩

theorem exec_frame {i : Instr} {s t : State} (h : exec i s = .next t) : CommandFrame s t :=
  exec_keeps (fun _ _ op hu => hu.trans op.frame) h (commandFrame_refl s)

/-- Nothing is written but default volumes and reports. -/
structure OnlyDefaults (s t : State) : Prop where
  frame : t = { s with ch := t.ch, tx := t.tx }
  chan : ∀ k, chanAt t k = { chanAt s k with volumeChannelDefault := (chanAt t k).volumeChannelDefault }

theorem onlyDefaults_refl (s : State) : OnlyDefaults s s := ⟨rfl, fun _ => rfl⟩

theorem OnlyDefaults.trans {s t u : State} (h : OnlyDefaults s t) (h' : OnlyDefaults t u) : OnlyDefaults s u where
  frame := by rw [h'.frame, h.frame]
  chan k := by rw [h'.chan k, h.chan k]

theorem onlyDefaults_setDefault (c : Chan) (v : U8) (s : State) :
    OnlyDefaults s (setChan c (fun k => { k with volumeChannelDefault := v }) s) where
  frame := rfl
  chan k := by
    by_cases hk : k = c
    · subst hk; simp
    · rw [chanAt_setChan_other _ _ _ _ hk]

theorem onlyDefaults_setDefaults (targets : List Chan) (v : U8) (s : State) :
    OnlyDefaults s (setDefaults targets v s) := by
  induction targets generalizing s with
  | nil => exact onlyDefaults_refl s
  | cons c cs ih => exact (onlyDefaults_setDefault c v s).trans (ih _)

theorem onlyDefaults_execVolume {v c : Option Int} {s t : State} (h : execVolume v c s = .next t) :
    OnlyDefaults s t := by
  cases h
  split
  · exact onlyDefaults_refl s
  · exact (onlyDefaults_setDefaults _ _ s).trans ⟨rfl, fun _ => rfl⟩

/-- Settles O27: every operation of a command has the frame (`CommandOp.frame`); VOLUME writes defaults and reports. -/
theorem commandsWriteOnlyTheirState : Obligations.CommandsWriteOnlyTheirState := by
  intro i s t h
  obtain ⟨hrx, hrefused, hagenda, ⟨hpar, htime, hperPass⟩, events, htx⟩ := exec_frame h
  refine ⟨rfl, hrx, hrefused, hpar, hagenda, htime, hperPass, ⟨events, htx.symm⟩, ?_, ?_⟩
  · rintro v c rfl
    obtain ⟨hframe, hchan⟩ := onlyDefaults_execVolume h
    refine ⟨?_, ?_, ?_, ?_, ?_, ?_, hchan⟩ <;> rw [hframe]
  · rintro line (rfl | rfl)
    · cases h; rfl
    · cases h; rfl

end Sys2Proof.Machine
end

section
/-! What Stop and the phases of a pass do to the record, the pin and the tone generator of a channel
(42_channel_state_machine.md R162, R163, R166), under any clock sampling. -/

namespace Sys2Proof.Machine

theorem chanAt_stopChan (c : Chan) (s : State) : chanAt (stopChan c s) c = stoppedChannel (chanAt s c) :=
  chanAt_setChan_same _ _ _

theorem pin_stopChan (c : Chan) (s : State) : (stopChan c s).pin.get c = .level false := get_set_same _ _ _

theorem tone_stopChan (c : Chan) (s : State) : (stopChan c s).tone.get c = ⟨false, (s.tone.get c).freq⟩ :=
  get_set_same _ _ _

theorem genAdvance_of_not_playing {c : Chan} {s : State} (h : (chanAt s c).isPlaying = false) :
    genAdvance c s = s := by
  simp [genAdvance, h]

theorem chanAt_swToggle (c : Chan) (s : State) :
    chanAt (swToggle c s) c
      = { chanAt s c with pinLevel := !(chanAt s c).pinLevel, lastToggleTime := nowUs (readClock s) } :=
  chanAt_setChan_same _ _ _

/-- `SwAdvance(c)` writes the two oscillator fields of the record and a level on the pin. -/
theorem chanAt_swAdvance (c : Chan) (s : State) :
    ∃ l u, chanAt (swAdvance c s) c = { chanAt s c with pinLevel := l, lastToggleTime := u } := by
  simp only [swAdvance]
  split
  · exact ⟨_, _, chanAt_swToggle c (readClock s)⟩
  · exact ⟨_, _, rfl⟩

theorem pin_swAdvance (c : Chan) (s : State) : ∃ b, (swAdvance c s).pin.get c = .level b :=
  ⟨_, get_set_same _ _ _⟩

/-- `GenAdvance(c)` writes the applied volume and, in SoftwareToggle, the two oscillator fields. -/
theorem chanAt_genAdvance (c : Chan) (s : State) :
    ∃ v l u, chanAt (genAdvance c s) c
      = { chanAt s c with appliedVolume := v, pinLevel := l, lastToggleTime := u } := by
  simp only [genAdvance]
  split
  · split
    · obtain ⟨l, u, h⟩ := chanAt_swAdvance c
        (setChan c (fun k => { k with appliedVolume := envelopeOutput (readClock s) c }) (readClock s))
      exact ⟨_, l, u, by rw [h, chanAt_setChan_same]; rfl⟩
    · exact ⟨_, _, _, chanAt_setChan_same _ _ _⟩
    · exact ⟨_, _, _, chanAt_setChan_same _ _ _⟩
  · exact ⟨_, _, _, rfl⟩

/-- `GenAdvance(c)` writes the pin in SoftwareToggle only, and then a level. -/
theorem pin_genAdvance (c : Chan) (s : State) :
    ((chanAt s c).generatorMode = .softwareToggle ∧ ∃ b, (genAdvance c s).pin.get c = .level b)
      ∨ (genAdvance c s).pin.get c = s.pin.get c := by
  simp only [genAdvance, chanAt_setChan_same, chanAt_readClock]
  split
  · split
    · next hm => exact .inl ⟨hm, pin_swAdvance _ _⟩
    · exact .inr rfl
    · exact .inr rfl
  · exact .inr rfl

/-- What `TransitionCheck(c)` can do: nothing for a channel that does not play, else `Stop`, or a change of the envelope
alone, not to Idle unless it was Idle. -/
theorem transitionCheck_cases (c : Chan) (s : State) :
    ((chanAt s c).isPlaying = false ∧ transitionCheck c s = s)
    ∨ transitionCheck c s = stopChan c (readClock s)
    ∨ ((chanAt s c).isPlaying = true ∧ (transitionCheck c s).pin = s.pin ∧ (transitionCheck c s).tone = s.tone
      ∧ ∃ e m v, chanAt (transitionCheck c s) c
          = { chanAt s c with envelope := e, releaseStartTime := m, releaseStartVolume := v }
        ∧ (e = .idle → (chanAt s c).envelope = .idle)) := by
  simp only [transitionCheck]
  split
  · next hp =>
    split
    · exact .inr (.inl rfl)
    · split
      · exact .inr (.inr ⟨hp, rfl, rfl, _, _, _, chanAt_setChan_same _ _ _, by simp⟩)
      · split
        · exact .inr (.inr ⟨hp, rfl, rfl, _, _, _, chanAt_setChan_same _ _ _, by simp⟩)
        · exact .inr (.inr ⟨hp, rfl, rfl, _, _, _, rfl, id⟩)
  · next h => exact .inl ⟨by simpa using h, rfl⟩

end Sys2Proof.Machine
end

section
/-! No operation but VOLUME's writes a default volume (10_state.md R37). -/

namespace Sys2Proof.Machine

/-- An operation on channel `c` keeps each default volume when it keeps that of `c` and the whole other channel. -/
theorem default_of_own_and_other {c : Chan} {s t : State}
    (hown : (chanAt t c).volumeChannelDefault = (chanAt s c).volumeChannelDefault)
    (hother : ∀ k, k ≠ c → SameLane k s t) (k : Chan) :
    (chanAt t k).volumeChannelDefault = (chanAt s k).volumeChannelDefault := by
  by_cases hk : k = c
  · rw [hk, hown]
  · rw [(hother k hk).1]

@[simp] theorem default_stopChan (c k : Chan) (s : State) :
    (chanAt (stopChan c s) k).volumeChannelDefault = (chanAt s k).volumeChannelDefault :=
  default_of_own_and_other (by rw [chanAt_stopChan]; rfl) (fun _ hk => sameLane_stopChan hk s) k

@[simp] theorem default_playNote (c k : Chan) (f : Freq) (d : U32) (v : U8) (s : State) :
    (chanAt (playNote c f d v s) k).volumeChannelDefault = (chanAt s k).volumeChannelDefault :=
  default_of_own_and_other (by rw [chanAt_playNote]; rfl) (fun _ hk => sameLane_playNote hk f d v s) k

@[simp] theorem default_cancelSweep (k : Chan) (s : State) :
    (chanAt (cancelSweep s) k).volumeChannelDefault = (chanAt s k).volumeChannelDefault := by
  rw [(sameLane_cancelSweep k s).1]

@[simp] theorem default_sweepAdvance (k : Chan) (s : State) :
    (chanAt (sweepAdvance s) k).volumeChannelDefault = (chanAt s k).volumeChannelDefault := by
  unfold sweepAdvance
  split
  · simp
  · rfl

@[simp] theorem default_sweepStep (k : Chan) (s : State) :
    (chanAt (sweepStep s) k).volumeChannelDefault = (chanAt s k).volumeChannelDefault := by
  unfold sweepStep
  split
  · simp
  · rfl

@[simp] theorem default_genAdvance (c k : Chan) (s : State) :
    (chanAt (genAdvance c s) k).volumeChannelDefault = (chanAt s k).volumeChannelDefault := by
  refine default_of_own_and_other ?_ (fun _ hk => sameLane_genAdvance hk s) k
  obtain ⟨v, l, u, h⟩ := chanAt_genAdvance c s
  rw [h]

@[simp] theorem default_transitionCheck (c k : Chan) (s : State) :
    (chanAt (transitionCheck c s) k).volumeChannelDefault = (chanAt s k).volumeChannelDefault := by
  refine default_of_own_and_other ?_ (fun _ hk => sameLane_transitionCheck hk s) k
  obtain ⟨-, h⟩ | h | ⟨-, -, -, e, m, v, h, -⟩ := transitionCheck_cases c s
  · rw [h]
  · simp [h]
  · rw [h]

theorem CommandOp.default {i : Instr} (hi : ∀ v c, i ≠ .volume v c) {s t : State} (h : CommandOp i s t) (k : Chan) :
    (chanAt t k).volumeChannelDefault = (chanAt s k).volumeChannelDefault := by
  cases h with
  | report r s => rfl
  | clock s => rfl
  | cancel s => simp
  | stop c s => simp
  | play c f v s hd => simp
  | setDefault c v s hv =>
    obtain ⟨v, c, hv⟩ := hv
    exact absurd hv (hi v c)
  | startSweep s => rfl
  | advance s => simp

/-- Settles O28: only VOLUME has an operation that writes a default volume, and the phases have none. -/
theorem onlyVolumeChangesTheDefault : Obligations.OnlyVolumeChangesTheDefault :=
  ⟨fun _ _ _ k h hi => exec_keeps (fun _ _ op hu => (op.default hi k).trans hu) h rfl,
    fun s k => by simp [phasesBeforeCommand]⟩

end Sys2Proof.Machine
end

section
/-! A command on one channel leaves the other channel (10_state.md R48). -/

namespace Sys2Proof.Machine

/-- A play command on the named channel leaves another channel. -/
theorem sameLane_playOne {c k : Chan} (hk : k ≠ c) (f : Freq) (d : Option U32) (v : Option Int) (s : State) :
    SameLane k s (playOne f d (some c) v s) := by
  cases d with
  | none => exact sameLane_refl k s
  | some d => exact sameLane_trans (sameLane_cancelSweepFor c k s) (sameLane_playNote hk f d _ _)

/-- A play command on channel 1 leaves the sweep. -/
theorem sweep_playOne_right (f : Freq) (d : Option U32) (v : Option Int) (s : State) :
    (playOne f d (some .right) v s).sweepActive = s.sweepActive
      ∧ (playOne f d (some .right) v s).sweepIndex = s.sweepIndex := by
  cases d with
  | none => exact ⟨rfl, rfl⟩
  | some d => exact ⟨playNote_sweepActive _ _ _ _ _, playNote_sweepIndex _ _ _ _ _⟩

theorem sameLane_setDefaults {k : Chan} {targets : List Chan} (hk : k ∉ targets) (v : U8) (s : State) :
    SameLane k s (setDefaults targets v s) := by
  induction targets generalizing s with
  | nil => exact sameLane_refl k s
  | cons c cs ih =>
    obtain ⟨hc, hcs⟩ := not_or.mp (List.mem_cons.not.mp hk)
    exact sameLane_trans (sameLane_setChan hc _ s) (ih hcs _)

theorem sameLane_stopTargets {k : Chan} {targets : List Chan} (hk : k ∉ targets) (s : State) :
    SameLane k s (stopTargets targets s) := by
  induction targets generalizing s with
  | nil => exact sameLane_refl k s
  | cons c cs ih =>
    obtain ⟨hc, hcs⟩ := not_or.mp (List.mem_cons.not.mp hk)
    exact sameLane_trans (sameLane_stopChan hc s) (ih hcs _)

/-- VOLUME leaves the channels that it does not name. -/
theorem sameLane_execVolume {k : Chan} {targets : List Chan} {v c : Option Int} {s t : State}
    (hc : targetChans c = some targets) (hk : k ∉ targets) (h : exec (.volume v c) s = .next t) : SameLane k s t := by
  cases h
  rw [hc]
  exact sameLane_trans (sameLane_setDefaults hk _ s) (sameLane_emit _ _ _)

/-- STOP leaves the channels that it does not name. -/
theorem sameLane_execStop {k : Chan} {targets : List Chan} {c : Option Int} {s t : State}
    (hc : targetChans c = some targets) (hk : k ∉ targets) (h : exec (.stop c) s = .next t) : SameLane k s t := by
  cases h
  rw [hc]
  refine sameLane_trans (sameLane_trans ?_ (sameLane_stopTargets hk _)) (sameLane_emit _ _ _)
  split
  · exact sameLane_cancelSweep k s
  · exact sameLane_refl k s

/-- TEST leaves channel 1: it plays the sweep on channel 0. -/
theorem sameLane_execTest {s t : State} (h : exec .test s = .next t) : SameLane .right s t := by
  cases h
  exact sameLane_trans (sameLane_trans (sameLane_setSweep _ _ _ _) (sameLane_emit _ _ _)) (sameLane_sweepAdvance _)

/-- Settles O29: each of these commands is made of operations on its own channel. -/
theorem commandLeavesTheOtherChannel : Obligations.CommandLeavesTheOtherChannel := by
  intro s t f q n d v
  constructor
  · rintro (h | h | h | h | h | h)
    · cases h; exact sameLane_playOne (c := .left) (by decide) _ _ _ s
    · cases h; exact sameLane_playOne (c := .left) (by decide) _ _ _ s
    · exact sameLane_execVolume (targets := [.left]) rfl (by decide) h
    · exact sameLane_execStop (targets := [.left]) rfl (by decide) h
    · cases h; exact sameLane_playOne (c := .left) (by decide) _ _ _ s
    · exact sameLane_execTest h
  · rintro (h | h | h | h)
    · cases h; exact ⟨sameLane_playOne (c := .right) (by decide) _ _ _ s, sweep_playOne_right _ _ _ s⟩
    · cases h; exact ⟨sameLane_playOne (c := .right) (by decide) _ _ _ s, sweep_playOne_right _ _ _ s⟩
    · refine ⟨sameLane_execVolume (targets := [.right]) rfl (by decide) h, ?_⟩
      cases h; exact ⟨rfl, rfl⟩
    · refine ⟨sameLane_execStop (targets := [.right]) rfl (by decide) h, ?_⟩
      cases h; exact ⟨rfl, rfl⟩

end Sys2Proof.Machine
end

section
/-! The bounds of durations and frequencies that the invariant asks for (10_state.md R33, R35). -/

namespace Sys2Proof.Machine

theorem okInt_sat32s (x : Int) : okInt (some (Text.sat32s x)) = true := by
  have h : -2147483648 ≤ Text.sat32s x ∧ Text.sat32s x ≤ 2147483647 := by
    unfold Text.sat32s
    omega
  exact decide_eq_true h

theorem okInt_intParse (l : List Byte) : okInt (Text.intParse l) = true := by
  simp only [Text.intParse]
  split
  · rfl
  · exact okInt_sat32s _

theorem okInt_intField (flds : List (List Byte)) (i : Nat) : okInt (Text.intField flds i) = true := by
  unfold Text.intField
  cases flds[i]? with
  | none => rfl
  | some f => exact okInt_intParse f

theorem okInt_durationField_ite {p : Prop} [Decidable p] {i j : Instr} (hi : okInt (durationField i) = true)
    (hj : okInt (durationField j) = true) : okInt (durationField (if p then i else j)) = true := by
  split
  · exact hi
  · exact hj

/-- Each arm of the classifier reads its duration by `IntParse` or has none. -/
theorem okInt_durationField_classifyLine (line : List Byte) : okInt (durationField (classifyLine line)) = true := by
  have hnone : okInt none = true := rfl
  unfold classifyLine
  repeat' apply okInt_durationField_ite
  all_goals simp only [durationField, okInt_intField, hnone]

/-- A decoded duration is in the range of `IntParse`, 30_encoding.md R84. -/
theorem okInt_durationField_classify (raw : List Byte) : okInt (durationField (classify raw)) = true := by
  simp only [classify]
  split
  · rfl
  · exact okInt_durationField_classifyLine _

theorem durationOk_of_playDuration {d : Option Int} {u : U32} (hd : okInt d = true) (h : playDuration d = some u) :
    durationOk u = true := by
  unfold playDuration at h
  split at h
  · next hpos =>
    cases h
    cases d with
    | none => exact absurd hpos (by decide)
    | some x =>
      simp only [okInt, decide_eq_true_eq, Option.getD_some] at hd hpos
      simp only [durationOk, wrap32, Option.getD_some, BitVec.toNat_ofNat, decide_eq_true_eq]
      omega
  · cases h

theorem durationOk_of_sweep {sweep : List SweepNote} {i : Nat} {n : SweepNote} (h : sweepOk sweep = true)
    (hn : sweep[i]? = some n) : durationOk n.dur = true := by
  simp only [sweepOk, Bool.and_eq_true, List.all_eq_true] at h
  exact (h.1.1 n (List.mem_of_getElem? hn)).2

theorem nearNote_nearNote (f : Freq) : nearNote (nearNote f) = nearNote f := by
  cases f with
  | hz q => rfl
  | note n => simp only [nearNote, Freq.note.injEq]; omega
  | free r => rfl

/-- The spelling that `canonFreq` chooses lies where the one it replaces does. -/
theorem nearNote_canonFreq_nearNote (f : Freq) : nearNote (canonFreq (nearNote f)) = canonFreq (nearNote f) := by
  cases h : nearNote f with
  | hz q => rfl
  | note n =>
    have hn : nearNote (.note n) = .note n := h ▸ nearNote_nearNote f
    simp only [canonFreq]
    split
    · rfl
    · exact hn
  | free r => rfl

theorem canonFreq_canonFreq (f : Freq) : canonFreq (canonFreq f) = canonFreq f := by
  cases f with
  | hz q => rfl
  | note n =>
    by_cases h : (n - a4Note) % 12 = 0
    · simp only [canonFreq, if_pos h]
    · simp only [canonFreq, if_neg h]
  | free r => rfl

theorem atLeast_canonFreq {b : Nat} (hb : 0 < b) (f : Freq) : atLeast b (canonFreq f) = atLeast b f := by
  rw [Bool.eq_iff_iff, atLeast_iff hb, atLeast_iff hb, freqReal_canonFreq]

theorem scaledLe_canonFreq (a b : Nat) (f : Freq) : scaledLe a (canonFreq f) b = scaledLe a f b := by
  rw [Bool.eq_iff_iff, scaledLe_iff, scaledLe_iff, freqReal_canonFreq]

/-- What the clamp can answer: a bound, or its argument in the one spelling. -/
theorem clampFreq_cases (f : Freq) :
    clampFreq f = .hz fMin ∨ clampFreq f = .hz fMax
      ∨ (atLeast fMin (nearNote f) = true ∧ scaledLe 1 (nearNote f) fMax = true
        ∧ clampFreq f = canonFreq (nearNote f)) := by
  unfold clampFreq
  split
  · exact .inl rfl
  · next hmin =>
    split
    · exact .inr (.inl rfl)
    · next hmax => exact .inr (.inr ⟨by simpa using hmin, by simpa using hmax, rfl⟩)

/-- The clamp keeps what it has clamped. -/
theorem clampFreq_clampFreq (f : Freq) : clampFreq (clampFreq f) = clampFreq f := by
  obtain h | h | ⟨hmin, hmax, h⟩ := clampFreq_cases f
  · rw [h]; decide
  · rw [h]; decide
  · rw [h]
    simp [clampFreq, nearNote_canonFreq_nearNote, atLeast_canonFreq (by decide : 0 < fMin), scaledLe_canonFreq,
      canonFreq_canonFreq, hmin, hmax]

end Sys2Proof.Machine
end

section
/-! Each operation keeps the invariant of a channel (10_state.md R46, R47, R50). -/

namespace Sys2Proof.Machine

theorem laneInv_congr {c : Chan} {s t : State} (h : SameLane c s t) (hs : LaneInv s c) : LaneInv t c := by
  obtain ⟨hch, hpin, htone⟩ := h
  simpa only [LaneInv, LaneIdle, LanePlaying, LaneSoftware, LaneHardware, hch, hpin, htone] using hs

/-- An operation on channel `c` keeps both channels' invariants when it keeps that of `c` and the other channel. -/
theorem lanes_of_own_and_other {c : Chan} {s t : State} (hs : ∀ k, LaneInv s k) (hown : LaneInv t c)
    (hother : ∀ k, k ≠ c → SameLane k s t) (k : Chan) : LaneInv t k := by
  by_cases hk : k = c
  · exact hk ▸ hown
  · exact laneInv_congr (hother k hk) (hs k)

theorem laneInv_of_idle {s : State} {c : Chan} (hp : (chanAt s c).isPlaying = false) (h : LaneIdle s c) : LaneInv s c :=
  ⟨fun _ => h, fun hp' => by simp [hp] at hp'⟩

theorem laneInv_of_playing {s : State} {c : Chan} (hp : (chanAt s c).isPlaying = true) (h : LanePlaying s c) :
    LaneInv s c :=
  ⟨fun hp' => by simp [hp] at hp', fun _ => h⟩

/-- `Stop(c)` leaves the channel Idle, Off and silent. -/
theorem laneInv_stopChan (c : Chan) (s : State) : LaneInv (stopChan c s) c := by
  refine laneInv_of_idle (by rw [chanAt_stopChan]; rfl) ?_
  simp [LaneIdle, chanAt_stopChan, pin_stopChan, tone_stopChan, stoppedChannel]

/-- `Play(c, f, d, v)` leaves the channel playing the clamped frequency in the mode of that frequency. -/
theorem laneInv_playNote (c : Chan) (f : Freq) {d : U32} (hd : durationOk d = true) (v : U8) (s : State) :
    LaneInv (playNote c f d v s) c := by
  have hch := chanAt_playNote c f d v s
  have hpin := pin_playNote c f d v s
  have htone := tone_playNote c f d v s
  refine laneInv_of_playing (by rw [hch]; rfl) ?_
  cases ha : aboveThreshold (clampFreq f) with
  | true => simp [LanePlaying, LaneHardware, hch, hpin, htone, playedChannel, ha, hd, clampFreq_clampFreq]
  | false => simp [LanePlaying, LaneSoftware, hch, hpin, htone, playedChannel, ha, hd, clampFreq_clampFreq]

/-- `GenAdvance(c)` writes no field that the invariant fixes for a channel that plays. -/
theorem laneInv_genAdvance {c : Chan} {s : State} (h : LaneInv s c) : LaneInv (genAdvance c s) c := by
  cases hp : (chanAt s c).isPlaying with
  | false => rwa [genAdvance_of_not_playing hp]
  | true =>
    obtain ⟨v, l, u, hch⟩ := chanAt_genAdvance c s
    obtain ⟨henv, hfreq, hdur, hgen⟩ := h.2 hp
    refine laneInv_of_playing (by rw [hch]; exact hp) ?_
    simp only [LanePlaying, LaneSoftware, LaneHardware, hch, genAdvance_tone]
    refine ⟨henv, hfreq, hdur, ?_⟩
    obtain ⟨hm, b, hpin⟩ | hpin := pin_genAdvance c s
    · obtain ⟨-, hlow, hinterval, -, htone⟩ | ⟨hm', -⟩ := hgen
      · exact .inl ⟨hm, hlow, hinterval, by rw [hpin]; cases b <;> simp, htone⟩
      · simp [hm] at hm'
    · rwa [hpin]

/-- `TransitionCheck(c)` stops the channel or changes its envelope alone, and not to Idle. -/
theorem laneInv_transitionCheck {c : Chan} {s : State} (h : LaneInv s c) : LaneInv (transitionCheck c s) c := by
  obtain ⟨-, heq⟩ | heq | ⟨hp, hpin, htone, e, m, v, hch, he⟩ := transitionCheck_cases c s
  · rwa [heq]
  · rw [heq]
    exact laneInv_stopChan c _
  · obtain ⟨henv, hrest⟩ := h.2 hp
    refine laneInv_of_playing (by rw [hch]; exact hp) ?_
    simp only [LanePlaying, LaneSoftware, LaneHardware, hch, hpin, htone]
    exact ⟨fun hi => henv (he hi), hrest⟩

/-- VOLUME's write of a default volume: no clause of the invariant reads it. -/
theorem laneInv_setDefault (c : Chan) (v : U8) {s : State} (h : LaneInv s c) :
    LaneInv (setChan c (fun k => { k with volumeChannelDefault := v }) s) c := by
  simpa only [LaneInv, LaneIdle, LanePlaying, LaneSoftware, LaneHardware, chanAt_setChan_same, setChan_pin,
    setChan_tone] using h

end Sys2Proof.Machine
end

section
/-! Every step keeps the invariant of the machine. -/

namespace Sys2Proof.Machine

/-- The invariant but for the receive stream, which no operation of a pass writes: what the operations keep. -/
structure PassInv (s : State) : Prop where
  par : paramsOk s.par = true
  sweep : s.sweepActive = true → s.sweepIndex ≤ s.par.testSweep.length
  lanes : ∀ c, LaneInv s c

theorem stateInv_iff (s : State) : StateInv s ↔ PassInv s ∧ s.rx.length ≤ s.par.rxCapacity := by
  constructor
  · rintro ⟨hpar, hrx, hsweep, hleft, hright⟩
    exact ⟨⟨hpar, hsweep, fun c => by cases c; exacts [hleft, hright]⟩, hrx⟩
  · rintro ⟨⟨hpar, hsweep, hlanes⟩, hrx⟩
    exact ⟨hpar, hrx, hsweep, hlanes .left, hlanes .right⟩

theorem sweepOk_of_paramsOk {p : Params} (h : paramsOk p = true) : sweepOk p.testSweep = true := by
  simp only [paramsOk, Bool.and_eq_true] at h
  exact h.2

/-- An operation on channel `c` that writes neither parameters nor sweep. -/
theorem PassInv.of_own_and_other {c : Chan} {s t : State} (h : PassInv s) (hpar : t.par = s.par)
    (hactive : t.sweepActive = s.sweepActive) (hindex : t.sweepIndex = s.sweepIndex) (hown : LaneInv t c)
    (hother : ∀ k, k ≠ c → SameLane k s t) : PassInv t where
  par := hpar ▸ h.par
  sweep := by rw [hpar, hactive, hindex]; exact h.sweep
  lanes := lanes_of_own_and_other h.lanes hown hother

theorem PassInv.stopChan {s : State} (h : PassInv s) (c : Chan) : PassInv (stopChan c s) :=
  h.of_own_and_other rfl rfl rfl (laneInv_stopChan c s) (fun _ hk => sameLane_stopChan hk s)

theorem PassInv.playNote {s : State} (h : PassInv s) (c : Chan) (f : Freq) {d : U32} (hd : durationOk d = true)
    (v : U8) : PassInv (playNote c f d v s) :=
  h.of_own_and_other (by simp) (by simp) (by simp) (laneInv_playNote c f hd v s)
    (fun _ hk => sameLane_playNote hk f d v s)

theorem PassInv.genAdvance {s : State} (h : PassInv s) (c : Chan) : PassInv (genAdvance c s) :=
  h.of_own_and_other (by simp) (by simp) (by simp) (laneInv_genAdvance (h.lanes c))
    (fun _ hk => sameLane_genAdvance hk s)

theorem PassInv.transitionCheck {s : State} (h : PassInv s) (c : Chan) : PassInv (transitionCheck c s) :=
  h.of_own_and_other (by simp) (by simp) (by simp) (laneInv_transitionCheck (h.lanes c))
    (fun _ hk => sameLane_transitionCheck hk s)

theorem PassInv.cancelSweep {s : State} (h : PassInv s) : PassInv (cancelSweep s) where
  par := by rw [cancelSweep_par]; exact h.par
  sweep ha := by simp [cancelSweep_eq, sweepCancelled] at ha
  lanes c := laneInv_congr (sameLane_cancelSweep c s) (h.lanes c)

/-- The sweep moves on to its next entry, whose duration is legal, or ends. -/
theorem PassInv.sweepAdvance {s : State} (h : PassInv s) : PassInv (sweepAdvance s) := by
  unfold Machine.sweepAdvance
  split
  · next n hn =>
    have hnext : PassInv (setSweep s.sweepActive (s.sweepIndex + 1) s) :=
      ⟨h.par, fun _ => (List.getElem?_eq_some_iff.mp hn).1, h.lanes⟩
    exact hnext.playNote _ _ (durationOk_of_sweep (sweepOk_of_paramsOk h.par) hn) _
  · exact ⟨h.par, fun ha => by simp at ha, h.lanes⟩

theorem PassInv.sweepStep {s : State} (h : PassInv s) : PassInv (sweepStep s) := by
  unfold Machine.sweepStep
  split
  · exact h.sweepAdvance
  · exact h

theorem PassInv.phasesBeforeCommand {s : State} (h : PassInv s) : PassInv (phasesBeforeCommand s) :=
  ((((h.genAdvance _).genAdvance _).transitionCheck _).transitionCheck _).sweepStep

theorem PassInv.commandOp {i : Instr} (hi : okInt (durationField i) = true) {s t : State} (op : CommandOp i s t)
    (h : PassInv s) : PassInv t := by
  cases op with
  | report r => exact ⟨h.par, h.sweep, h.lanes⟩
  | clock => exact ⟨h.par, h.sweep, h.lanes⟩
  | cancel => exact h.cancelSweep
  | stop c => exact h.stopChan c
  | play c f v _ hd => exact h.playNote c f (durationOk_of_playDuration hi hd) v
  | setDefault c v =>
    exact h.of_own_and_other rfl rfl rfl (laneInv_setDefault c v (h.lanes c)) (fun _ hk => sameLane_setChan hk _ s)
  | startSweep => exact ⟨h.par, fun _ => Nat.zero_le _, h.lanes⟩
  | advance => exact h.sweepAdvance

theorem PassInv.exec {i : Instr} {s t : State} (h : PassInv s) (hi : okInt (durationField i) = true)
    (he : exec i s = .next t) : PassInv t :=
  exec_keeps (fun _ _ op hu => hu.commandOp hi op) he h

theorem length_takeLine {l line rest : List Byte} (h : takeLine l = some (line, rest)) : rest.length ≤ l.length := by
  induction l generalizing line with
  | nil => cases h
  | cons b bs ih =>
    simp only [takeLine] at h
    split at h
    · cases h; simp
    · split at h
      · cases h
      · next hbs =>
        cases h
        exact (ih hbs).trans (Nat.le_succ _)

theorem eq_classify_of_decode {m : Option Nat} {raw : List Byte} {i : Instr} (h : decode m raw = .ok i) :
    i = classify raw := by
  unfold decode at h
  split at h
  · cases h
  · cases h; rfl

theorem stateInv_phasesBeforeCommand {s : State} (h : StateInv s) : StateInv (phasesBeforeCommand s) := by
  rw [stateInv_iff] at h ⊢
  exact ⟨h.1.phasesBeforeCommand, by simpa using h.2⟩

/-- The Command phase takes bytes from the stream and carries out a decoded command, whose duration is in range. -/
theorem stateInv_commandPhase {s t : State} (h : StateInv s) (hc : commandPhase s = .next t) : StateInv t := by
  rw [stateInv_iff] at h ⊢
  obtain ⟨hinv, hrx⟩ := h
  unfold commandPhase at hc
  split at hc
  · cases hc
    exact ⟨hinv, hrx⟩
  · next line rest hline =>
    have hrest : rest.length ≤ s.par.rxCapacity := (length_takeLine hline).trans hrx
    have htaken : PassInv { s with rx := rest } := ⟨hinv.par, hinv.sweep, hinv.lanes⟩
    split at hc
    · cases hc
      exact ⟨⟨hinv.par, hinv.sweep, hinv.lanes⟩, hrest⟩
    · next i hi =>
      have hdur : okInt (durationField i) = true := eq_classify_of_decode hi ▸ okInt_durationField_classify line
      have hframe := exec_frame hc
      exact ⟨htaken.exec hdur hc, by rw [hframe.rx, hframe.clock.1]; exact hrest⟩

theorem stateInv_dispatchPass {s t : State} (h : StateInv s) (hd : dispatchPass s = .next t) : StateInv t := by
  unfold dispatchPass at hd
  split at hd
  · cases hd
  · exact stateInv_commandPhase (stateInv_phasesBeforeCommand h) hd

/-- The Host keeps to the capacity (10_state.md R53). -/
theorem stateInv_hostSend {b : Byte} {s t : State} (h : StateInv s) (hs : hostSend b s = .next t) : StateInv t := by
  obtain ⟨hpar, -, hsweep, hleft, hright⟩ := h
  unfold hostSend at hs
  split at hs
  · next hroom =>
    cases hs
    exact ⟨hpar, by simpa using hroom, hsweep, hleft, hright⟩
  · cases hs

theorem stateInv_agentStep {m : Move} {s t : State} (h : StateInv s) (ha : agentStep m s = .next t) : StateInv t := by
  cases m with
  | dispatch => exact stateInv_dispatchPass h ha
  | send b => exact stateInv_hostSend h ha
  | read => cases ha; exact h
  | advance us => cases ha; exact h

/-- Settles O59: the invariant reads neither the agenda nor the draw counter, and every agent's move keeps it. -/
theorem everyStepKeepsTheInvariant : Obligations.EveryStepKeepsTheInvariant := by
  intro s t h hstep
  unfold step at hstep
  split at hstep
  · exact stateInv_dispatchPass (s := drawAgenda s) h hstep
  · next m rest _ => exact stateInv_agentStep (s := { s with agenda := rest }) h hstep

theorem paramsOk_resetParams : paramsOk resetParams = true := by
  have hsweep : sweepOk resetParams.testSweep = true := by
    simp only [resetParams]
    split
    · assumption
    · decide
  simp only [paramsOk, hsweep]
  simp [resetParams]

/-- Settles O58: both channels are idle, and the parameters are the free ones brought into their bounds. -/
theorem resetMeetsTheInvariant : Obligations.ResetMeetsTheInvariant := by
  have hidle : ∀ c, LaneInv State.reset c := fun c => by
    cases c <;> exact laneInv_of_idle rfl ⟨rfl, rfl, rfl, rfl, rfl, rfl, rfl⟩
  exact ⟨paramsOk_resetParams, Nat.zero_le _, fun h => Bool.noConfusion h, hidle .left, hidle .right⟩

end Sys2Proof.Machine
end

section
/-! The clock's two views (10_state.md R51). -/

namespace Sys2Proof.Machine

/-- Settles O55: the views are the time, and the time in ms, as 32-bit words. -/
theorem clockViewsWrap : Obligations.ClockViewsWrap := by
  intro s
  exact ⟨BitVec.toNat_ofNat _ _, BitVec.toNat_ofNat _ _⟩

end Sys2Proof.Machine
end

section
/-! With one clock sample per pass, what the phases leave of a channel depends on that channel, the time and the
parameters alone (10_state.md R48). -/

namespace Sys2Proof.Machine

/-- Two states, with one clock sample per pass, that agree on all that the phases may use for channel `c`. -/
structure AgreeOn (c : Chan) (s t : State) : Prop where
  perPass : PerPass s
  par : s.par = t.par
  time : s.time = t.time
  lane : SameLane c s t

namespace AgreeOn

variable {c k : Chan} {s t : State}

/-- An operation that leaves channel `k` and, under PerPass, the clock. -/
theorem of_sameLane {op : State → State} (h : AgreeOn k s t) (hl : ∀ u, SameLane k u (op u))
    (hc : ∀ u, ClockOk u (op u)) : AgreeOn k (op s) (op t) := by
  obtain ⟨hparS, -, htimeS⟩ := hc s
  obtain ⟨hparT, -, htimeT⟩ := hc t
  have hp : PerPass t := by simpa only [PerPass, h.par] using h.perPass
  exact {
    perPass := by simpa only [PerPass, hparS] using h.perPass
    par := by rw [hparS, hparT, h.par]
    time := by rw [(htimeS h.perPass).1, (htimeT hp).1, h.time]
    lane := sameLane_trans (sameLane_symm (hl s)) (sameLane_trans h.lane (hl t)) }

theorem readClock (h : AgreeOn c s t) : AgreeOn c (readClock s) (readClock t) :=
  h.of_sameLane (sameLane_readClock c) clockOk_readClock

/-! Writes of channel `c`'s record and pin, of the same value in both states. -/

theorem setChan (h : AgreeOn c s t) {f g : Channel → Channel} (hfg : f (chanAt t c) = g (chanAt t c)) :
    AgreeOn c (setChan c f s) (setChan c g t) where
  perPass := h.perPass
  par := h.par
  time := h.time
  lane := ⟨by rw [chanAt_setChan_same, chanAt_setChan_same, h.lane.1, hfg], h.lane.2⟩

theorem setPin (h : AgreeOn c s t) {d e : PinDrive} (hde : d = e) : AgreeOn c (setPin c d s) (setPin c e t) where
  perPass := h.perPass
  par := h.par
  time := h.time
  lane := ⟨h.lane.1, by simp [hde], h.lane.2.2⟩

theorem stopChan (h : AgreeOn c s t) : AgreeOn c (stopChan c s) (stopChan c t) where
  perPass := h.perPass
  par := h.par
  time := h.time
  lane := by
    obtain ⟨hch, -, htone⟩ := h.lane
    simp only [SameLane, chanAt_stopChan, pin_stopChan, tone_stopChan, hch, htone, and_self]

/-! What is read for channel `c`. -/

theorem elapsed (h : AgreeOn c s t) : elapsed s c = elapsed t c := elapsed_congr h.time h.lane.1

theorem nowMs (h : AgreeOn c s t) : nowMs s = nowMs t := nowMs_congr h.time

theorem nowUs (h : AgreeOn c s t) : nowUs s = nowUs t := nowUs_congr h.time

theorem expired (h : AgreeOn c s t) : expired s c = expired t c := by
  simp only [Machine.expired, h.elapsed, h.lane.1]

theorem releaseDue (h : AgreeOn c s t) : releaseDue s c = releaseDue t c := by
  simp only [Machine.releaseDue, h.elapsed, h.lane.1, h.par]

theorem sustainDue (h : AgreeOn c s t) : sustainDue s c = sustainDue t c := by
  simp only [Machine.sustainDue, h.elapsed, h.lane.1, h.par]

theorem toggleDue (h : AgreeOn c s t) : toggleDue s c = toggleDue t c := by
  simp only [Machine.toggleDue, h.nowUs, h.lane.1]

theorem envelopeOutput (h : AgreeOn c s t) : envelopeOutput s c = envelopeOutput t c := by
  simp only [Machine.envelopeOutput, h.elapsed, h.nowMs, h.lane.1, h.par]

/-! The phases of channel `c`. -/

theorem swToggle (h : AgreeOn c s t) : AgreeOn c (swToggle c s) (swToggle c t) := by
  simp only [Machine.swToggle, h.readClock.nowUs]
  exact h.readClock.setChan rfl

theorem swOutput (h : AgreeOn c s t) : AgreeOn c (swOutput c s) (swOutput c t) :=
  h.readClock.setPin (by rw [h.readClock.nowUs, h.readClock.lane.1, h.readClock.par])

theorem swAdvance (h : AgreeOn c s t) : AgreeOn c (swAdvance c s) (swAdvance c t) := by
  simp only [Machine.swAdvance, h.readClock.toggleDue]
  split
  · exact h.readClock.swToggle.swOutput
  · exact h.readClock.swOutput

theorem genAdvance_own (h : AgreeOn c s t) : AgreeOn c (genAdvance c s) (genAdvance c t) := by
  have hset : AgreeOn c
      (Machine.setChan c (fun k => { k with appliedVolume := Machine.envelopeOutput (Machine.readClock s) c })
        (Machine.readClock s))
      (Machine.setChan c (fun k => { k with appliedVolume := Machine.envelopeOutput (Machine.readClock t) c })
        (Machine.readClock t)) :=
    h.readClock.setChan (by rw [h.readClock.envelopeOutput])
  simp only [genAdvance, chanAt_setChan_same, chanAt_readClock, h.lane.1]
  split
  · split
    · exact hset.swAdvance
    · exact hset
    · exact hset
  · exact h

theorem enterRelease (h : AgreeOn c s t) : AgreeOn c (enterRelease c s) (enterRelease c t) := by
  simp only [Machine.enterRelease, h.readClock.nowMs]
  exact h.readClock.setChan rfl

theorem transitionCheck_own (h : AgreeOn c s t) : AgreeOn c (transitionCheck c s) (transitionCheck c t) := by
  simp only [transitionCheck, h.lane.1, h.readClock.expired, h.readClock.releaseDue, h.readClock.sustainDue]
  split
  · split
    · exact h.readClock.stopChan
    · split
      · exact h.readClock.enterRelease
      · split
        · exact h.readClock.setChan rfl
        · exact h.readClock
  · exact h

/-- `GenAdvance` of either channel. -/
theorem genAdvance (h : AgreeOn k s t) (c : Chan) : AgreeOn k (genAdvance c s) (genAdvance c t) := by
  by_cases hk : k = c
  · subst hk; exact h.genAdvance_own
  · exact h.of_sameLane (sameLane_genAdvance hk) (clockOk_genAdvance c)

/-- `TransitionCheck` of either channel. -/
theorem transitionCheck (h : AgreeOn k s t) (c : Chan) : AgreeOn k (transitionCheck c s) (transitionCheck c t) := by
  by_cases hk : k = c
  · subst hk; exact h.transitionCheck_own
  · exact h.of_sameLane (sameLane_transitionCheck hk) (clockOk_transitionCheck c)

/-- Play leaves of its channel what the channel, the time and its operands give. -/
theorem playNote (h : AgreeOn c s t) (f : Freq) (d : U32) (v : U8) :
    SameLane c (playNote c f d v s) (playNote c f d v t) := by
  refine ⟨?_, by rw [pin_playNote, pin_playNote], by rw [tone_playNote, tone_playNote, h.lane.2.2]⟩
  rw [chanAt_playNote, chanAt_playNote, h.readClock.nowMs, h.readClock.readClock.nowUs, h.lane.1]
  simp only [playedChannel, h.lane.1]

theorem setSweep (h : AgreeOn c s t) (a b : Bool) (i j : Nat) : AgreeOn c (setSweep a i s) (setSweep b j t) :=
  ⟨h.perPass, h.par, h.time, h.lane⟩

/-- The sweep's next note is a Play on channel 0 with operands from the parameters and the sweep state. -/
theorem sweepAdvance_left (h : AgreeOn .left s t) (hi : s.sweepIndex = t.sweepIndex) :
    SameLane .left (sweepAdvance s) (sweepAdvance t) := by
  simp only [sweepAdvance, hi, h.par, h.lane.1]
  cases t.par.testSweep[t.sweepIndex]? with
  | some n => exact (h.setSweep _ _ _ _).playNote n.freq n.dur _
  | none => exact h.lane

/-- The sweep step of channel 0 reads the sweep state besides. -/
theorem sweepStep_left (h : AgreeOn .left s t) (ha : s.sweepActive = t.sweepActive) (hi : s.sweepIndex = t.sweepIndex) :
    SameLane .left (sweepStep s) (sweepStep t) := by
  simp only [sweepStep, ha, h.lane.1]
  split
  · exact h.sweepAdvance_left hi
  · exact h.lane

end AgreeOn

/-- Settles O44: each phase keeps the agreement on a channel; the sweep step leaves channel 1 and reads the sweep. -/
theorem phasesKeepTheChannelsApart : Obligations.PhasesKeepTheChannelsApart := by
  intro s t hp hpar htime
  have phases {k : Chan} (hl : SameLane k s t) :=
    ((((AgreeOn.mk hp hpar htime hl).genAdvance .left).genAdvance .right).transitionCheck .left).transitionCheck .right
  constructor
  · intro hl
    exact ((phases hl).of_sameLane sameLane_sweepStep clockOk_sweepStep).lane
  · intro hl ha hi
    exact (phases hl).sweepStep_left (by simpa using ha) (by simpa using hi)

end Sys2Proof.Machine
end

section
/-! Taking a line from the receive stream (20_memory.md R63). -/

namespace Sys2Proof.Machine

theorem takeLine_of_line {line : List Byte} (h : Text.lf ∉ line) (rest : List Byte) :
    takeLine (line ++ Text.lf :: rest) = some (line, rest) := by
  induction line with
  | nil => simp [takeLine]
  | cons b bs ih =>
    obtain ⟨hb, hbs⟩ := List.ne_and_not_mem_of_not_mem_cons h
    simp [takeLine, hb.symm, ih hbs]

theorem takeLine_eq_none_of_not_mem {rx : List Byte} (h : Text.lf ∉ rx) : takeLine rx = none := by
  induction rx with
  | nil => rfl
  | cons b bs ih =>
    obtain ⟨hb, hbs⟩ := List.ne_and_not_mem_of_not_mem_cons h
    simp [takeLine, hb.symm, ih hbs]

/-- A taken line is the stream up to its first LF. -/
theorem takeLine_eq_some_iff {rx line rest : List Byte} :
    takeLine rx = some (line, rest) ↔ Text.lf ∉ line ∧ rx = line ++ Text.lf :: rest := by
  constructor
  · intro h
    by_cases hmem : Text.lf ∈ rx
    · obtain ⟨line', rest', rfl, hline⟩ := List.eq_append_cons_of_mem hmem
      rw [takeLine_of_line hline] at h
      cases h
      exact ⟨hline, rfl⟩
    · rw [takeLine_eq_none_of_not_mem hmem] at h
      cases h
  · rintro ⟨hline, rfl⟩
    exact takeLine_of_line hline rest

theorem takeLine_eq_none_iff {rx : List Byte} : takeLine rx = none ↔ Text.lf ∉ rx := by
  refine ⟨fun h hmem => ?_, takeLine_eq_none_of_not_mem⟩
  obtain ⟨line, rest, rfl, hline⟩ := List.eq_append_cons_of_mem hmem
  rw [takeLine_of_line hline] at h
  cases h

/-- Settles O34: by induction on the line, and a stream with an LF is a line, that LF and a rest. -/
theorem takeLineStopsAtTheFirstLineFeed : Obligations.TakeLineStopsAtTheFirstLineFeed :=
  ⟨fun _ rest hline => takeLine_of_line hline rest, fun _ => takeLine_eq_none_iff⟩

end Sys2Proof.Machine
end

section
/-! What a pass leaves of the two streams, the mark, the parameters and the clock (42_channel_state_machine.md R160,
R164), and what a step of any agent does. -/

namespace Sys2Proof.Machine

/-- What holds of the streams, the mark, the parameters and the clock before and after a pass. -/
structure PassFrame (s t : State) : Prop where
  rx : (Text.lf ∉ s.rx ∧ t.rx = s.rx) ∨ ∃ line, Text.lf ∉ line ∧ s.rx = line ++ Text.lf :: t.rx
  tx : s.tx <+: t.tx
  clock : ClockOk s t
  refused : s.refused = true → t.refused = true

theorem sweepStep_tx_prefix (s : State) : s.tx <+: (sweepStep s).tx := by
  unfold sweepStep
  split
  · exact sweepAdvance_tx_prefix s
  · exact List.prefix_rfl

theorem phasesBeforeCommand_tx_prefix (s : State) : s.tx <+: (phasesBeforeCommand s).tx := by
  unfold phasesBeforeCommand
  simpa only [transitionCheck_tx, genAdvance_tx] using
    sweepStep_tx_prefix (transitionCheck .right (transitionCheck .left (genAdvance .right (genAdvance .left s))))

/-- The inversion lemma of `commandPhase`: there is no line, an over-long line is dropped, or a line is carried out. -/
theorem commandPhase_cases {s t : State} (h : commandPhase s = .next t) :
    (Text.lf ∉ s.rx ∧ t = s)
    ∨ ∃ line rest, Text.lf ∉ line ∧ s.rx = line ++ Text.lf :: rest
      ∧ ((decode s.par.lineMax line = .error .lineTooLong ∧ t = { s with rx := rest, refused := true })
        ∨ ∃ i, decode s.par.lineMax line = .ok i ∧ exec i { s with rx := rest } = .next t) := by
  unfold commandPhase at h
  split at h
  · next hnone =>
    cases h
    exact .inl ⟨takeLine_eq_none_iff.mp hnone, rfl⟩
  · next line rest hsome =>
    obtain ⟨hline, hrx⟩ := takeLine_eq_some_iff.mp hsome
    refine .inr ⟨line, rest, hline, hrx, ?_⟩
    split at h
    · next herror =>
      cases h
      exact .inl ⟨herror, rfl⟩
    · next i hok => exact .inr ⟨i, hok, h⟩

theorem passFrame_commandPhase {s t : State} (h : commandPhase s = .next t) : PassFrame s t := by
  obtain ⟨hrx, rfl⟩ | ⟨line, rest, hline, hrx, ⟨-, rfl⟩ | ⟨i, -, hexec⟩⟩ := commandPhase_cases h
  · exact ⟨.inl ⟨hrx, rfl⟩, List.prefix_rfl, clockOk_refl _, id⟩
  · exact ⟨.inr ⟨line, hline, hrx⟩, List.prefix_rfl, clockOk_of_eq rfl rfl rfl, fun _ => rfl⟩
  · obtain ⟨hrest, hrefused, -, hclock, htx⟩ := exec_frame hexec
    exact ⟨.inr ⟨line, hline, by rw [hrest]; exact hrx⟩, htx, hclock, hrefused.trans⟩

theorem passFrame_dispatchPass {s t : State} (h : dispatchPass s = .next t) : PassFrame s t := by
  unfold dispatchPass at h
  split at h
  · cases h
  · obtain ⟨hrx, htx, hclock, hrefused⟩ := passFrame_commandPhase h
    simp only [phasesBeforeCommand_rx, phasesBeforeCommand_refused] at hrx hrefused
    exact ⟨hrx, (phasesBeforeCommand_tx_prefix s).trans htx, clockOk_trans (clockOk_phasesBeforeCommand s) hclock,
      hrefused⟩

/-- The turn of Dispatch changes the agenda and the draw counter only. -/
theorem dispatchState_eq {s s0 : State} (h : dispatchState s = some s0) :
    s0 = { s with agenda := s0.agenda, draws := s0.draws } := by
  unfold dispatchState at h
  split at h <;> cases h <;> rfl

/-- When it is Dispatch's turn, the step is a pass. -/
theorem step_of_dispatchState {s s0 : State} (h : dispatchState s = some s0) : step s = dispatchPass s0 := by
  unfold dispatchState at h
  split at h
  · next hagenda => cases h; simp only [step, hagenda, drawAgenda]
  · next hagenda => cases h; simp only [step, hagenda, agentStep]
  all_goals cases h

/-- A step is an agent's move on a state that differs in the agenda and the draw counter only. -/
theorem step_eq_agentStep (s : State) :
    ∃ m agenda draws, step s = agentStep m { s with agenda := agenda, draws := draws } := by
  unfold step
  split
  · exact ⟨.dispatch, _, _, rfl⟩
  · exact ⟨_, _, _, rfl⟩

theorem passFrame_of_dispatchState {s s0 t : State} (h0 : dispatchState s = some s0) (h : step s = .next t) :
    PassFrame s0 t :=
  passFrame_dispatchPass ((step_of_dispatchState h0).symm.trans h)

/-- Settles O35: only the Command phase takes from the stream. -/
theorem dispatchTakesAtMostOneLine : Obligations.DispatchTakesAtMostOneLine := by
  intro s s0 t h0 h
  have hrx := (passFrame_of_dispatchState h0 h).rx
  rwa [dispatchState_eq h0] at hrx

/-- Settles O36: the sweep step and the command only append. -/
theorem dispatchOnlyAppendsReports : Obligations.DispatchOnlyAppendsReports := by
  intro s s0 t h0 h
  obtain ⟨events, htx⟩ := (passFrame_of_dispatchState h0 h).tx
  rw [dispatchState_eq h0] at htx
  exact ⟨events, htx.symm⟩

theorem agentStep_keeps_par_time_refused {m : Move} {s t : State} (h : agentStep m s = .next t) :
    t.par = s.par ∧ s.time ≤ t.time ∧ (s.refused = true → t.refused = true) := by
  cases m with
  | dispatch =>
    obtain ⟨-, -, ⟨hpar, htime, -⟩, hrefused⟩ := passFrame_dispatchPass h
    exact ⟨hpar, htime, hrefused⟩
  | send b =>
    simp only [agentStep, hostSend] at h
    split at h
    · cases h; exact ⟨rfl, le_rfl, id⟩
    · cases h
  | read => cases h; exact ⟨rfl, le_rfl, id⟩
  | advance us => cases h; exact ⟨rfl, Nat.le_add_right _ _, id⟩

/-- Settles O60: the agenda aside, a step is an agent's move, and each move keeps the three. -/
theorem stepsKeepParametersTimeAndRefusal : Obligations.StepsKeepParametersTimeAndRefusal := by
  intro s t h
  obtain ⟨m, agenda, draws, hm⟩ := step_eq_agentStep s
  exact agentStep_keeps_par_time_refused (s := { s with agenda := agenda, draws := draws }) (hm.symm.trans h)

end Sys2Proof.Machine
end

section
/-! A line as a token and the fields after it (30_encoding.md R82, R98). -/

namespace Sys2Proof.Machine

theorem fieldLine_cons (tok f : List Byte) (fs : List (List Byte)) :
    fieldLine tok (f :: fs) = tok ++ Text.comma :: fieldLine f fs := by simp [fieldLine]

/-- Joining with commas writes the line of the first field and the others. -/
theorem joinFields_eq_fieldLine (tok : List Byte) (flds : List (List Byte)) :
    joinFields (tok :: flds) = fieldLine tok flds := by
  induction flds generalizing tok with
  | nil => exact (fieldLine_nil tok).symm
  | cons f fs ih => rw [fieldLine_cons, ← ih]; rfl

theorem exists_fieldLine (line : List Byte) :
    ∃ tok flds, (∀ f ∈ tok :: flds, Text.comma ∉ f) ∧ line = fieldLine tok flds := by
  induction line with
  | nil => exact ⟨[], [], by simp, rfl⟩
  | cons b bs ih =>
    obtain ⟨tok, flds, hcomma, rfl⟩ := ih
    by_cases hb : b = Text.comma
    · subst hb
      exact ⟨[], tok :: flds, by simpa using hcomma, (fieldLine_cons [] tok flds).symm⟩
    · rw [List.forall_mem_cons] at hcomma
      obtain ⟨htok, hflds⟩ := hcomma
      exact ⟨b :: tok, flds, List.forall_mem_cons.2 ⟨List.not_mem_cons_of_ne_of_not_mem (Ne.symm hb) htok, hflds⟩, rfl⟩

theorem token_fieldLine {tok : List Byte} {flds : List (List Byte)} (h : ∀ f ∈ tok :: flds, Text.comma ∉ f) :
    Text.token (fieldLine tok flds) = tok := by
  rw [Text.token, splitFields_fieldLine h, List.headD_cons]

/-- For any token without a comma, as each keyword is. -/
theorem token_eq_iff {k : List Byte} (hk : Text.comma ∉ k) (line : List Byte) :
    Text.token line = k ↔ line = k ∨ ∃ rest, line = k ++ Text.comma :: rest := by
  constructor
  · rintro rfl
    obtain ⟨tok, flds, hcomma, rfl⟩ := exists_fieldLine line
    rw [token_fieldLine hcomma]
    cases flds with
    | nil => exact .inl (fieldLine_nil tok)
    | cons f fs => exact .inr ⟨_, fieldLine_cons tok f fs⟩
  · rintro (rfl | ⟨rest, rfl⟩)
    · rw [Text.token, splitFields_last hk, List.headD_cons]
    · rw [Text.token, splitFields_field hk, List.headD_cons]

theorem comma_not_mem_keyword : ∀ k ∈ Text.keywords, Text.comma ∉ k := by decide

/-- Settles O6: no keyword holds a comma. -/
theorem tokenMatchIsExact : Obligations.TokenMatchIsExact :=
  fun k hk => token_eq_iff (comma_not_mem_keyword k hk)

/-- The line begins with what its token begins with: a comma is no digit. -/
theorem startsWithDigit_fieldLine (tok : List Byte) (flds : List (List Byte)) :
    Text.startsWithDigit (fieldLine tok flds) = Text.startsWithDigit tok := by
  cases tok with
  | cons b bs => rfl
  | nil =>
    cases flds with
    | nil => rfl
    | cons f fs => rfl

theorem startsWithDigit_iff (l : List Byte) :
    Text.startsWithDigit l = true ↔ ∃ b, l.head? = some b ∧ Text.isDigit b = true := by
  cases l with
  | nil => simp [Text.startsWithDigit]
  | cons b bs => simp [Text.startsWithDigit]

theorem legacyShape_fieldLine {tok : List Byte} {flds : List (List Byte)} (h : ∀ f ∈ tok :: flds, Text.comma ∉ f) :
    Text.legacyShape (fieldLine tok flds) = true ↔ flds.length = 1 ∧ Text.startsWithDigit tok = true := by
  simp [Text.legacyShape, splitFields_fieldLine h, startsWithDigit_fieldLine]

end Sys2Proof.Machine
end

section
/-! Normalisation (30_encoding.md R81): what `strip` removes, and what writing in upper case keeps. -/

namespace Sys2Proof

@[simp] theorem isStripped_upperByte : ∀ b : Byte, Text.isStripped (Text.upperByte b) = Text.isStripped b := by decide

@[simp] theorem upperByte_upperByte : ∀ b : Byte, Text.upperByte (Text.upperByte b) = Text.upperByte b := by decide

theorem upperByte_eq_lf : ∀ b : Byte, Text.upperByte b = Text.lf → b = Text.lf := by decide

theorem isStripped_iff (b : Byte) : Text.isStripped b = true ↔ b = Text.sp ∨ b = Text.ht ∨ b = Text.cr := by
  simp [Text.isStripped, or_assoc]

theorem strip_eq (l : List Byte) : Text.strip l = (l.dropWhile Text.isStripped).rdropWhile Text.isStripped := rfl

/-- A text is what `strip` leaves of it, between bytes that it removes. -/
theorem exists_eq_append_strip (l : List Byte) :
    ∃ before after, (∀ b ∈ before, Text.isStripped b = true) ∧ (∀ b ∈ after, Text.isStripped b = true)
      ∧ l = before ++ Text.strip l ++ after :=
  ⟨l.takeWhile Text.isStripped, (l.dropWhile Text.isStripped).rtakeWhile Text.isStripped,
    fun _ => List.mem_takeWhile_imp, fun _ => List.mem_rtakeWhile_imp, by
      rw [strip_eq, List.append_assoc, List.rdropWhile_append_rtakeWhile, List.takeWhile_append_dropWhile]⟩

theorem strip_surrounded {before after : List Byte} (hb : ∀ b ∈ before, Text.isStripped b = true)
    (ha : ∀ b ∈ after, Text.isStripped b = true) (l : List Byte) :
    Text.strip (before ++ l ++ after) = Text.strip l := by
  have hdrop : after.dropWhile Text.isStripped = [] := List.dropWhile_eq_nil_iff.2 ha
  rw [List.append_assoc, Text.strip, List.dropWhile_append_of_pos hb, List.dropWhile_append, hdrop]
  split
  · next h => rw [Text.strip, List.isEmpty_iff.1 h]
  · rw [List.reverse_append, List.dropWhile_append_of_pos (by simpa using ha), Text.strip]

theorem strip_strip (l : List Byte) : Text.strip (Text.strip l) = Text.strip l := by
  obtain ⟨before, after, hb, ha, hl⟩ := exists_eq_append_strip l
  conv_rhs => rw [hl, strip_surrounded hb ha]

theorem strip_map_upperByte (l : List Byte) : Text.strip (l.map Text.upperByte) = (Text.strip l).map Text.upperByte := by
  have hkeep : Text.isStripped ∘ Text.upperByte = Text.isStripped := funext isStripped_upperByte
  simp only [Text.strip, List.dropWhile_map, ← List.map_reverse, hkeep]

theorem normalize_map_upperByte (l : List Byte) : Text.normalize (l.map Text.upperByte) = Text.normalize l := by
  simp [Text.normalize, strip_map_upperByte, Function.comp_def]

theorem normalize_normalize (l : List Byte) : Text.normalize (Text.normalize l) = Text.normalize l :=
  calc Text.normalize (Text.normalize l)
    _ = Text.normalize (Text.strip l) := normalize_map_upperByte (Text.strip l)
    _ = Text.normalize l := by rw [Text.normalize, strip_strip, Text.normalize]

theorem mem_of_mem_strip {b : Byte} {l : List Byte} (h : b ∈ Text.strip l) : b ∈ l := by
  obtain ⟨before, after, -, -, hl⟩ := exists_eq_append_strip l
  rw [hl, List.append_assoc]
  exact List.mem_append_right _ (List.mem_append_left _ h)

theorem lf_not_mem_normalize {l : List Byte} (h : Text.lf ∉ l) : Text.lf ∉ Text.normalize l := by
  intro hmem
  obtain ⟨b, hb, hlf⟩ := List.mem_map.1 hmem
  exact h (upperByte_eq_lf b hlf ▸ mem_of_mem_strip hb)

theorem classify_congr {raw raw' : List Byte} (h : Text.normalize raw = Text.normalize raw') :
    classify raw = classify raw' := by
  rw [classify, h, classify]

/-- Settles O5: the classifier reads the normalised line only. -/
theorem blanksAroundAndCaseDoNotMatter : Obligations.BlanksAroundAndCaseDoNotMatter := by
  intro before raw after hb ha
  simp only [← isStripped_iff] at hb ha
  exact ⟨classify_congr (by rw [Text.normalize, strip_surrounded hb ha, Text.normalize]),
    classify_congr (normalize_map_upperByte raw)⟩

end Sys2Proof
end

section
/-! The numeric parsers on any text (30_encoding.md R84, R85): blanks, a sign, digits, and a rest that is ignored. -/

namespace Sys2Proof

/-- A number's optional sign, `+` or `-`. -/
abbrev IsSign (sign : List Byte) : Prop := sign = [] ∨ sign = [Text.plus] ∨ sign = [Text.minus]

/-- `l` begins with neither a blank nor a sign. -/
abbrev NoSignAhead (l : List Byte) : Prop :=
  ∀ b, l.head? = some b → b ≠ Text.sp ∧ b ≠ Text.ht ∧ b ≠ Text.plus ∧ b ≠ Text.minus

theorem isBlank_iff (b : Byte) : Text.isBlank b = true ↔ b = Text.sp ∨ b = Text.ht := by simp [Text.isBlank]

theorem noSignAhead_digits {ds : List Byte} (hne : ds ≠ []) (hds : ∀ b ∈ ds, Text.isDigit b = true)
    (rest : List Byte) : NoSignAhead (ds ++ rest) := by
  obtain ⟨d, ds, rfl⟩ := List.exists_cons_of_ne_nil hne
  have hd : ∀ b : Byte, Text.isDigit b = true → b ≠ Text.sp ∧ b ≠ Text.ht ∧ b ≠ Text.plus ∧ b ≠ Text.minus := by decide
  intro b hb
  cases hb
  exact hd d (hds d List.mem_cons_self)

theorem noSignAhead_dot (l : List Byte) : NoSignAhead (Text.dot :: l) := by
  intro b hb
  cases hb
  decide

/-- Nothing of a text without a blank or a sign ahead is skipped or read as a sign. -/
theorem takeSign_noSignAhead {l : List Byte} (h : NoSignAhead l) :
    Text.takeSign (l.dropWhile Text.isBlank) = (false, l) := by
  cases l with
  | nil => rfl
  | cons b bs =>
    obtain ⟨hsp, hht, hplus, hminus⟩ := h b rfl
    simp [Text.isBlank, Text.takeSign, hsp, hht, hplus, hminus]

/-- The parsers skip the blanks and read the sign. -/
theorem takeSign_blanks_sign {blanks sign : List Byte} (hblanks : ∀ b ∈ blanks, b = Text.sp ∨ b = Text.ht)
    (hsign : IsSign sign) {l : List Byte} (hl : sign = [] → NoSignAhead l) :
    Text.takeSign ((blanks ++ (sign ++ l)).dropWhile Text.isBlank) = (decide (sign = [Text.minus]), l) := by
  rw [List.dropWhile_append_of_pos fun b hb => (isBlank_iff b).2 (hblanks b hb)]
  obtain rfl | rfl | rfl := hsign
  · exact takeSign_noSignAhead (hl rfl)
  · rfl
  · rfl

theorem decimal_append_one (ds : List Byte) (d : Byte) :
    Text.decimal (ds ++ [d]) = 10 * Text.decimal ds + (d.toNat - 0x30) := by
  simp [Text.decimal]

/-- Digits behind others move them up by as many places. -/
theorem decimal_append (d1 d2 : List Byte) :
    Text.decimal (d1 ++ d2) = Text.decimal d1 * 10 ^ d2.length + Text.decimal d2 := by
  induction d2 using List.reverseRecOn with
  | nil => simp [Text.decimal]
  | append_singleton ds d ih =>
    rw [← List.append_assoc, decimal_append_one, ih, decimal_append_one, List.length_append, List.length_singleton]
    ring

/-- Settles O8: the blanks and the sign are read off, and the digit run ends where the rest begins. -/
theorem intParseReadsTheSaturatedDecimal : Obligations.IntParseReadsTheSaturatedDecimal := by
  refine ⟨fun ds d => ⟨rfl, decimal_append_one ds d⟩, ?_⟩
  intro blanks sign ds rest hblanks hsign hds hrest
  have hrun : (ds ++ rest).takeWhile Text.isDigit = ds := takeWhile_digits hds hrest
  rw [List.append_assoc, List.append_assoc]
  constructor
  · intro hne
    have htake := takeSign_blanks_sign hblanks hsign fun _ => noSignAhead_digits hne hds rest
    simp [Text.intParse, htake, hrun, hne, Text.sat32s, Text.applySign]
  · rintro rfl hhead
    have htake := takeSign_blanks_sign hblanks hsign hhead
    simp only [List.nil_append] at hrun ⊢
    simp [Text.intParse, htake, hrun]

theorem fractionDigits_dot {d2 rest : List Byte} (hd2 : ∀ b ∈ d2, Text.isDigit b = true)
    (hrest : ∀ b, rest.head? = some b → Text.isDigit b = false) :
    Text.fractionDigits (Text.dot :: (d2 ++ rest)) = d2 := by
  simp [Text.fractionDigits, takeWhile_digits hd2 hrest]

theorem fractionDigits_no_dot {rest : List Byte} (h : rest.head? ≠ some Text.dot) : Text.fractionDigits rest = [] := by
  cases rest with
  | nil => rfl
  | cons b bs =>
    have hb : b ≠ Text.dot := by simpa using h
    simp [Text.fractionDigits, hb]

/-- `sign · (decimal(D1) + decimal(D2) / 10^len(D2))` is what the number of the joined digits over `10^len(D2)` is. -/
theorem mkRat_joined_digits (negative : Bool) (d1 d2 : List Byte) :
    mkRat (Text.applySign negative (Text.decimal (d1 ++ d2))) (10 ^ d2.length)
      = (if negative then -1 else 1) * ((Text.decimal d1 : Rat) + (Text.decimal d2 : Rat) / 10 ^ d2.length) := by
  have hpow : ((10 : Rat) ^ d2.length) ≠ 0 := by positivity
  rw [Rat.mkRat_eq_div, Text.applySign, decimal_append]
  cases negative with
  | false => push_cast; field_simp
  | true => push_cast; field_simp; simp

/-- What `FloatParse` reads of blanks, a sign, a digit run and a tail that begins with no digit. -/
theorem floatParse_signed {blanks sign d1 tail : List Byte} (hblanks : ∀ b ∈ blanks, b = Text.sp ∨ b = Text.ht)
    (hsign : IsSign sign) (hd1 : ∀ b ∈ d1, Text.isDigit b = true)
    (htail : ∀ b, tail.head? = some b → Text.isDigit b = false) (hl : sign = [] → NoSignAhead (d1 ++ tail)) :
    Text.floatParse (blanks ++ (sign ++ (d1 ++ tail)))
      = if d1 = [] ∧ Text.fractionDigits tail = [] then none
        else some ((if sign = [Text.minus] then -1 else 1) * ((Text.decimal d1 : Rat)
          + (Text.decimal (Text.fractionDigits tail) : Rat) / 10 ^ (Text.fractionDigits tail).length)) := by
  simp only [Text.floatParse, takeSign_blanks_sign hblanks hsign hl, takeWhile_digits hd1 htail,
    dropWhile_digits hd1 htail, mkRat_joined_digits, decide_eq_true_eq]

/-- Settles O9: the tail behind the first digit run is a point with digits and the rest, or the rest. -/
theorem floatParseReadsTheExactDecimal : Obligations.FloatParseReadsTheExactDecimal := by
  intro blanks sign d1 d2 rest hblanks hsign hd1 hd2 hrest
  have hdot (l : List Byte) : ∀ b, (Text.dot :: l).head? = some b → Text.isDigit b = false := by
    rintro b ⟨⟩; decide
  simp only [List.append_assoc, List.cons_append]
  refine ⟨fun hne => ?_, fun hne hhead => ?_, ?_, fun hhead hl => ?_⟩
  · have hl : NoSignAhead (d1 ++ Text.dot :: (d2 ++ rest)) := by
      by_cases h1 : d1 = []
      · subst h1; exact noSignAhead_dot _
      · exact noSignAhead_digits h1 hd1 _
    rw [floatParse_signed hblanks hsign hd1 (hdot _) fun _ => hl, fractionDigits_dot hd2 hrest,
      if_neg (not_and_or.2 hne)]
  · rw [floatParse_signed hblanks hsign hd1 hrest fun _ => noSignAhead_digits hne hd1 rest,
      fractionDigits_no_dot hhead, if_neg (fun h => hne h.1)]
    simp [Text.decimal]
  · have hread := floatParse_signed hblanks hsign (d1 := []) (by simp) (hdot rest) fun _ => noSignAhead_dot rest
    have hnone : Text.fractionDigits (Text.dot :: rest) = [] := fractionDigits_dot (d2 := []) (by simp) hrest
    rwa [hnone, if_pos ⟨rfl, rfl⟩] at hread
  · have hread := floatParse_signed hblanks hsign (d1 := []) (by simp) hrest hl
    rwa [fractionDigits_no_dot hhead, if_pos ⟨rfl, rfl⟩] at hread

end Sys2Proof
end

section
/-! The classification of a raw line by its token and its fields (30_encoding.md R82, R83, R86 to R97, R99, R100). -/

namespace Sys2Proof.Machine

theorem decode_none (raw : List Byte) : decode none raw = .ok (classify raw) := rfl

theorem decode_some (m : Nat) (raw : List Byte) :
    decode (some m) raw = if m < raw.length then .error .lineTooLong else .ok (classify raw) := by
  simp [decode, tooLong]

theorem decode_of_length_le {lineMax : Option Nat} {raw : List Byte} (h : ∀ m, lineMax = some m → raw.length ≤ m) :
    decode lineMax raw = .ok (classify raw) := by
  cases lineMax with
  | none => exact decode_none raw
  | some m => rw [decode_some, if_neg (not_lt.2 (h m rfl))]

/-- Settles O4: only the length of the raw line is compared. -/
theorem decodeRefusesExactlyOverlongLines : Obligations.DecodeRefusesExactlyOverlongLines := by
  refine ⟨fun m raw => ?_, decode_none⟩
  rw [decode_some]
  split
  · next hlong => exact iff_of_true rfl hlong
  · next hfits => exact iff_of_false nofun hfits

theorem classify_of_normalize_eq_nil {raw : List Byte} (h : Text.normalize raw = []) : classify raw = .empty := if_pos h

theorem classify_of_normalize_ne_nil {raw : List Byte} (h : Text.normalize raw ≠ []) :
    classify raw = classifyLine (Text.normalize raw) := if_neg h

/-- The raw line is, normalised, the token `tok` and the fields `flds` after it. -/
structure HasFields (raw tok : List Byte) (flds : List (List Byte)) : Prop where
  comma : ∀ f ∈ tok :: flds, Text.comma ∉ f
  line : Text.normalize raw = fieldLine tok flds

theorem exists_hasFields (raw : List Byte) : ∃ tok flds, HasFields raw tok flds := by
  obtain ⟨tok, flds, hcomma, hline⟩ := exists_fieldLine (Text.normalize raw)
  exact ⟨tok, flds, hcomma, hline⟩

namespace HasFields

variable {raw tok : List Byte} {flds : List (List Byte)}

theorem splitFields (h : HasFields raw tok flds) : Text.splitFields (Text.normalize raw) = tok :: flds := by
  rw [h.line, splitFields_fieldLine h.comma]

theorem token (h : HasFields raw tok flds) : Text.token (Text.normalize raw) = tok := by
  rw [h.line, token_fieldLine h.comma]

/-- A line with a token is not blank. -/
theorem normalize_ne_nil (h : HasFields raw tok flds) (htok : tok ≠ []) : Text.normalize raw ≠ [] := by
  simp [h.line, fieldLine, htok]

theorem classify_of_token (h : HasFields raw tok flds) (htok : tok ≠ []) :
    classify raw = classifyLine (Text.normalize raw) :=
  classify_of_normalize_ne_nil (h.normalize_ne_nil htok)

/-! One equation per keyword. -/

theorem freq (h : HasFields raw Text.kwFreq flds) :
    classify raw = .freq (Text.floatField flds 0) (Text.intField flds 1) (Text.intField flds 2)
      (Text.intField flds 3) := by
  simp only [h.classify_of_token (by decide), classifyLine, h.token, h.splitFields]; rfl

theorem note (h : HasFields raw Text.kwNote flds) :
    classify raw = .note (Text.intField flds 0) (Text.intField flds 1) (Text.intField flds 2)
      (Text.intField flds 3) := by
  simp only [h.classify_of_token (by decide), classifyLine, h.token, h.splitFields]; rfl

theorem chord (h : HasFields raw Text.kwChord flds) :
    classify raw = .chord (Text.intField flds 0) (Text.intField flds 1) (Text.intField flds 2) := by
  simp only [h.classify_of_token (by decide), classifyLine, h.token, h.splitFields]; rfl

theorem mono (h : HasFields raw Text.kwMono flds) :
    classify raw = .mono (Text.intField flds 0) (Text.intField flds 1) := by
  simp only [h.classify_of_token (by decide), classifyLine, h.token, h.splitFields]; rfl

theorem volume (h : HasFields raw Text.kwVolume flds) :
    classify raw = .volume (Text.intField flds 0) (Text.intField flds 1) := by
  simp only [h.classify_of_token (by decide), classifyLine, h.token, h.splitFields]; rfl

theorem stop (h : HasFields raw Text.kwStop flds) : classify raw = .stop (Text.intField flds 0) := by
  simp only [h.classify_of_token (by decide), classifyLine, h.token, h.splitFields]; rfl

theorem status (h : HasFields raw Text.kwStatus flds) : classify raw = .status := by
  simp only [h.classify_of_token (by decide), classifyLine, h.token]; rfl

theorem test (h : HasFields raw Text.kwTest flds) : classify raw = .test := by
  simp only [h.classify_of_token (by decide), classifyLine, h.token]; rfl

/-- Without a keyword token, LEGACY by its shape, else UNKNOWN. -/
theorem not_keyword (h : HasFields raw tok flds) (htok : tok ∉ Text.keywords) (hline : Text.normalize raw ≠ []) :
    classify raw = if flds.length = 1 ∧ Text.startsWithDigit tok = true
      then .legacy ((Text.floatParse tok).getD 0) (Text.intField flds 0) else .unknown (Text.normalize raw) := by
  simp only [Text.keywords, List.mem_cons, List.not_mem_nil, or_false, not_or] at htok
  obtain ⟨hfreq, hnote, hchord, hmono, hvolume, hstop, hstatus, htest⟩ := htok
  have hshape := legacyShape_fieldLine h.comma
  rw [← h.line] at hshape
  simp only [classify_of_normalize_ne_nil hline, classifyLine, h.token, h.splitFields, hfreq, hnote, hchord, hmono,
    hvolume, hstop, hstatus, htest, if_false, hshape]
  rfl

end HasFields

/-- Settles O7: the fields of a line are those that it is split at (`exists_fieldLine`), and each case of the
classification has its equation. -/
theorem linesDecodeByTheirTokenAndFields : Obligations.LinesDecodeByTheirTokenAndFields := by
  refine ⟨exists_fieldLine, fun lineMax raw tok flds hlength hcomma hline => ?_⟩
  have h : HasFields raw tok flds := ⟨hcomma, hline⟩
  rw [decode_of_length_le hlength]
  refine ⟨?_, ?_, ?_, ?_, ?_, ?_, ?_, ?_, fun htok hne => ?_, fun hnil => ?_⟩
  · rintro rfl; exact congrArg _ h.freq
  · rintro rfl; exact congrArg _ h.note
  · rintro rfl; exact congrArg _ h.chord
  · rintro rfl; exact congrArg _ h.mono
  · rintro rfl; exact congrArg _ h.volume
  · rintro rfl; exact congrArg _ h.stop
  · rintro rfl; exact congrArg _ h.status
  · rintro rfl; exact congrArg _ h.test
  · simp only [← startsWithDigit_iff]; exact congrArg _ (h.not_keyword htok hne)
  · exact congrArg _ (classify_of_normalize_eq_nil hnil)

/-- Settles O1: the decoder runs on the bytes. -/
theorem writtenLinesDecode : Obligations.WrittenLinesDecode := by
  unfold Obligations.WrittenLinesDecode
  decide

end Sys2Proof.Machine
end

section
/-! What the decoder answers is in the range of its parsers (30_encoding.md R84, R85, R96, R99). -/

namespace Sys2Proof.Machine

/-- A divisor of a power of ten divides that of its own binary logarithm: the bound that `okDecimal` checks. -/
theorem dvd_ten_pow_log2 {d k : Nat} (h : d ∣ 10 ^ k) : d ∣ 10 ^ d.log2 := by
  induction d using Nat.recOnMul with
  | zero => simp at h
  | one => simp
  | prime p hp =>
    have hlog : 1 ≤ p.log2 := (Nat.le_log2 hp.ne_zero).2 hp.two_le
    exact dvd_pow (hp.dvd_of_dvd_pow h) (Nat.one_le_iff_ne_zero.1 hlog)
  | mul a b iha ihb =>
    have ha := iha (dvd_of_mul_right_dvd h)
    have hb := ihb (dvd_of_mul_left_dvd h)
    have hne : a * b ≠ 0 := ne_zero_of_dvd_ne_zero (by positivity) h
    obtain ⟨ha0, hb0⟩ := mul_ne_zero_iff.1 hne
    have hlog : a.log2 + b.log2 ≤ (a * b).log2 := by
      rw [Nat.le_log2 hne, pow_add]
      exact Nat.mul_le_mul (Nat.log2_self_le ha0) (Nat.log2_self_le hb0)
    exact (mul_dvd_mul ha hb).trans (by rw [← pow_add]; exact pow_dvd_pow 10 hlog)

theorem okDecimal_mkRat (n : Int) (k : Nat) : okDecimal (mkRat n (10 ^ k)) = true := by
  have hden : (mkRat n (10 ^ k)).den ∣ 10 ^ k := by
    have h := Rat.den_dvd n ((10 ^ k : Nat) : Int)
    rw [← Rat.mkRat_eq_divInt] at h
    exact Int.natCast_dvd_natCast.1 h
  exact beq_iff_eq.2 (Nat.mod_eq_zero_of_dvd (dvd_ten_pow_log2 hden))

theorem okFreq_floatParse (l : List Byte) : okFreq (Text.floatParse l) = true := by
  simp only [Text.floatParse]
  split
  · rfl
  · exact okDecimal_mkRat _ _

theorem okFreq_floatField (flds : List (List Byte)) (i : Nat) : okFreq (Text.floatField flds i) = true := by
  unfold Text.floatField
  cases flds[i]? with
  | none => rfl
  | some f => exact okFreq_floatParse f

/-- A text that begins with a digit has no sign, so it reads as a number, and not a negative one. -/
theorem floatParse_of_startsWithDigit {l : List Byte} (h : Text.startsWithDigit l = true) :
    ∃ q, Text.floatParse l = some q ∧ 0 ≤ q := by
  cases l with
  | nil => cases h
  | cons d ds =>
    have hd : Text.isDigit d = true := h
    have htake := takeSign_noSignAhead (noSignAhead_digits (ds := [d]) (by simp) (by simpa using hd) ds)
    rw [List.singleton_append] at htake
    simp only [Text.floatParse, htake, List.takeWhile_cons_of_pos hd]
    exact ⟨_, rfl, Rat.mkRat_nonneg (Int.natCast_nonneg _) _⟩

/-- An instruction of the classification is well-formed, UNKNOWN because its line is one normalised line. -/
theorem wellFormed_classify {raw : List Byte} (hlf : Text.lf ∉ raw) : WellFormed (classify raw) := by
  by_cases hne : Text.normalize raw = []
  · rw [classify_of_normalize_eq_nil hne]; rfl
  obtain ⟨tok, flds, h⟩ := exists_hasFields raw
  by_cases htok : tok ∈ Text.keywords
  · simp only [Text.keywords, List.mem_cons, List.not_mem_nil, or_false] at htok
    obtain rfl | rfl | rfl | rfl | rfl | rfl | rfl | rfl := htok
    · rw [h.freq]; simp [WellFormed, Instr.wellFormed, okFreq_floatField, okInt_intField]
    · rw [h.note]; simp [WellFormed, Instr.wellFormed, okInt_intField]
    · rw [h.chord]; simp [WellFormed, Instr.wellFormed, okInt_intField]
    · rw [h.mono]; simp [WellFormed, Instr.wellFormed, okInt_intField]
    · rw [h.volume]; simp [WellFormed, Instr.wellFormed, okInt_intField]
    · rw [h.stop]; simp [WellFormed, Instr.wellFormed, okInt_intField]
    · rw [h.status]; rfl
    · rw [h.test]; rfl
  · rw [h.not_keyword htok hne]
    split
    · next hshape =>
      obtain ⟨q, hq, hnonneg⟩ := floatParse_of_startsWithDigit hshape.2
      have hok : okDecimal q = true := by simpa [hq, okFreq] using okFreq_floatParse tok
      simp [WellFormed, Instr.wellFormed, hq, hnonneg, hok, okInt_intField]
    · next hshape =>
      have hlegacy : Text.legacyShape (Text.normalize raw) = false := by
        rwa [← Bool.not_eq_true, h.line, legacyShape_fieldLine h.comma]
      simp [WellFormed, Instr.wellFormed, okUnknown, hne, normalize_normalize, lf_not_mem_normalize hlf, h.token, htok,
        hlegacy]

/-- Settles O3: the decoder answers the classification, whose operands are in their parsers' ranges. -/
theorem decodedInstructionIsWellFormed : Obligations.DecodedInstructionIsWellFormed :=
  fun _ _ _ hlf hdecode => eq_classify_of_decode hdecode ▸ wellFormed_classify hlf

end Sys2Proof.Machine
end

section
/-! The encoder's lines (30_encoding.md R81, R109; log 20): normalised as they stand, and read back operand by operand. -/

namespace Sys2Proof.Machine

/-- A byte that normalisation keeps wherever it stands. -/
abbrev NormalByte (b : Byte) : Prop := Text.isStripped b = false ∧ Text.upperByte b = b

theorem normalByte_of_numberByte : ∀ b : Byte, NumberByte b → NormalByte b := by decide

theorem normalize_of_normalBytes {l : List Byte} (h : ∀ b ∈ l, NormalByte b) : Text.normalize l = l := by
  have hkeep (l : List Byte) (hl : ∀ b ∈ l, Text.isStripped b = false) : l.dropWhile Text.isStripped = l := by
    cases l with
    | nil => rfl
    | cons b bs => simp [hl b]
  have hstrip : Text.strip l = l := by
    rw [Text.strip, hkeep l fun b hb => (h b hb).1, hkeep l.reverse fun b hb => (h b (List.mem_reverse.1 hb)).1,
      List.reverse_reverse]
  rw [Text.normalize, hstrip, List.map_congr_left fun b hb => (h b hb).2, List.map_id']

/-- The bytes of a token that the encoder writes. -/
abbrev TokenByte (b : Byte) : Prop := NormalByte b ∧ b ≠ Text.comma

theorem tokenByte_of_numberByte {b : Byte} (h : NumberByte b) : TokenByte b :=
  ⟨normalByte_of_numberByte b h, numberByte_ne_comma h⟩

/-- Fields of a number's bytes behind a token stay as they are. -/
theorem hasFields_joinFields {tok : List Byte} {flds : List (List Byte)} (htok : ∀ b ∈ tok, TokenByte b)
    (hflds : ∀ f ∈ flds, ∀ b ∈ f, NumberByte b) : HasFields (joinFields (tok :: flds)) tok flds where
  comma := List.forall_mem_cons.2
    ⟨fun h => (htok _ h).2 rfl, fun f hf h => numberByte_ne_comma (hflds f hf _ h) rfl⟩
  line := by
    rw [← joinFields_eq_fieldLine]
    refine normalize_of_normalBytes fun b hb => ?_
    obtain rfl | ⟨f, hf, hbf⟩ := mem_joinFields hb
    · decide
    · obtain rfl | hf := List.mem_cons.1 hf
      · exact (htok b hbf).1
      · exact normalByte_of_numberByte b (hflds f hf b hbf)

theorem hasFields_intTexts {tok : List Byte} (htok : ∀ b ∈ tok, TokenByte b) (xs : List (Option Int)) :
    HasFields (joinFields (tok :: xs.map intText)) tok (xs.map intText) :=
  hasFields_joinFields htok (List.forall_mem_map.2 fun x _ => numberByte_intText x)

theorem startsWithDigit_ratText {q : Rat} (h : 0 ≤ q) : Text.startsWithDigit (ratText q) = true := by
  have hsign : decide (q.num < 0) = false := by simpa using h
  simp only [ratText, hsign, signText, Bool.false_eq_true, if_false, List.nil_append]
  generalize q.num.natAbs * 10 ^ q.den.log2 / q.den / 10 ^ q.den.log2 = n
  obtain ⟨d, ds, hd⟩ := List.exists_cons_of_ne_nil (natText_ne_nil n)
  rw [hd]
  exact isDigit_natText n d (by simp [hd])

theorem not_mem_keywords_of_startsWithDigit {tok : List Byte} (h : Text.startsWithDigit tok = true) :
    tok ∉ Text.keywords := fun hmem => by
  have hletter : ∀ k ∈ Text.keywords, Text.startsWithDigit k = false := by decide
  simp [hletter tok hmem] at h

theorem classify_encode_legacy {f : Rat} {d : Option Int} (h : WellFormed (.legacy f d)) :
    classify (encode (.legacy f d)) = .legacy f d := by
  simp only [WellFormed, Instr.wellFormed, Bool.and_eq_true, decide_eq_true_eq] at h
  obtain ⟨⟨hnonneg, hf⟩, hd⟩ := h
  have hdigit := startsWithDigit_ratText hnonneg
  have hfields := hasFields_intTexts (fun b hb => tokenByte_of_numberByte (numberByte_ratText f b hb)) [d]
  have hne : ratText f ≠ [] := by
    intro hnil
    simp [hnil, Text.startsWithDigit] at hdigit
  exact (hfields.not_keyword (not_mem_keywords_of_startsWithDigit hdigit) (hfields.normalize_ne_nil hne)).trans
    (by simp [hdigit, floatParse_ratText hf, Text.intField, intParse_intText hd])

theorem classify_encode_unknown {line : List Byte} (h : WellFormed (.unknown line)) :
    classify (encode (.unknown line)) = .unknown line := by
  simp only [WellFormed, Instr.wellFormed, okUnknown, Bool.and_eq_true, Bool.not_eq_true', bne_iff_ne, beq_iff_eq,
    List.contains_eq_mem, decide_eq_false_iff_not] at h
  obtain ⟨⟨⟨⟨hne, hnorm⟩, -⟩, hkeyword⟩, hshape⟩ := h
  obtain ⟨tok, flds, hfields⟩ := exists_hasFields line
  rw [← hnorm] at hne
  have htok : tok ∉ Text.keywords := by rwa [← hfields.token, hnorm]
  have hlegacy : ¬(flds.length = 1 ∧ Text.startsWithDigit tok = true) := by
    rwa [← legacyShape_fieldLine hfields.comma, ← hfields.line, hnorm, Bool.not_eq_true]
  rw [encode, hfields.not_keyword htok hne, if_neg hlegacy, hnorm]

theorem classify_encode {i : Instr} (h : WellFormed i) : classify (encode i) = i := by
  cases i with
  | freq f d c v =>
    simp only [WellFormed, Instr.wellFormed, Bool.and_eq_true] at h
    obtain ⟨⟨⟨hf, hd⟩, hc⟩, hv⟩ := h
    have hfields : HasFields (encode (.freq f d c v)) Text.kwFreq [freqText f, intText d, intText c, intText v] :=
      hasFields_joinFields (by decide)
        (by simpa using ⟨numberByte_freqText f, numberByte_intText d, numberByte_intText c, numberByte_intText v⟩)
    rw [hfields.freq]
    simp [Text.floatField, Text.intField, floatParse_freqText hf, intParse_intText, hd, hc, hv]
  | note n d c v =>
    simp only [WellFormed, Instr.wellFormed, Bool.and_eq_true] at h
    obtain ⟨⟨⟨hn, hd⟩, hc⟩, hv⟩ := h
    refine (hasFields_intTexts (by decide) [n, d, c, v]).note.trans ?_
    simp [Text.intField, intParse_intText, hn, hd, hc, hv]
  | chord n1 n2 d =>
    simp only [WellFormed, Instr.wellFormed, Bool.and_eq_true] at h
    obtain ⟨⟨h1, h2⟩, hd⟩ := h
    refine (hasFields_intTexts (by decide) [n1, n2, d]).chord.trans ?_
    simp [Text.intField, intParse_intText, h1, h2, hd]
  | mono n d =>
    simp only [WellFormed, Instr.wellFormed, Bool.and_eq_true] at h
    obtain ⟨hn, hd⟩ := h
    refine (hasFields_intTexts (by decide) [n, d]).mono.trans ?_
    simp [Text.intField, intParse_intText, hn, hd]
  | legacy f d => exact classify_encode_legacy h
  | volume v c =>
    simp only [WellFormed, Instr.wellFormed, Bool.and_eq_true] at h
    obtain ⟨hv, hc⟩ := h
    refine (hasFields_intTexts (by decide) [v, c]).volume.trans ?_
    simp [Text.intField, intParse_intText, hv, hc]
  | stop c =>
    refine (hasFields_intTexts (by decide) [c]).stop.trans ?_
    simp [Text.intField, intParse_intText, show okInt c = true from h]
  | status => exact (hasFields_intTexts (by decide) []).status
  | test => exact (hasFields_intTexts (by decide) []).test
  | unknown line => exact classify_encode_unknown h
  | empty => rfl

/-- Settles O2: the encoded line has the fields that were written (`hasFields_joinFields`), and each parser reads back
its own (`classify_encode`). -/
theorem decodeOfEncodeIsTheInstruction : Obligations.DecodeOfEncodeIsTheInstruction := by
  intro i h
  rw [decode_none, classify_encode h]

end Sys2Proof.Machine
end

section
/-! The operands of a play command (30_encoding.md R103, R104, R106): which fields name a channel, a duration, a volume. -/

namespace Sys2Proof.Machine

theorem playChan_eq_some_iff {c : Option Int} {k : Chan} : playChan c = some k ↔ NamesPlayChan c k := by
  cases c with
  | none => cases k <;> decide
  | some x =>
    by_cases h0 : x = 0
    · subst h0; cases k <;> decide
    · by_cases h1 : x = 1
      · subst h1; cases k <;> decide
      · simp [playChan, chanOfInt, NamesPlayChan, h0, h1]

theorem playDuration_eq_some_iff {d : Option Int} {u : U32} :
    playDuration d = some u ↔ ∃ x, d = some x ∧ 1 ≤ x ∧ u = BitVec.ofNat 32 x.toNat := by
  cases d with
  | none => simp [playDuration]
  | some x => simp [playDuration, wrap32, eq_comm]

/-- A positive duration operand within the range of `IntParse` is not narrowed (log 17). -/
theorem toNat_ofNat_duration {d : Int} (h1 : 1 ≤ d) (h2 : d ≤ 2147483647) :
    ((BitVec.ofNat 32 d.toNat).toNat : Int) = d := by
  rw [BitVec.toNat_ofNat]
  omega

theorem clampVolume_eq_volumeOf (x : Int) : clampVolume x = volumeOf x := by
  have h : min (max x 0) volMax = max 0 (min x 255) := by simp only [volMax]; omega
  simp only [clampVolume, volumeOf, h]

end Sys2Proof.Machine
end

section
/-! The whole next state of a play command that is carried out, with one clock sample per pass (40_play_commands.md R110
to R114). -/

namespace Sys2Proof.Machine

theorem perPass_beforePlay {s : State} (h : PerPass s) (k : Chan) : PerPass (beforePlay s k) := by
  cases k <;> exact h

/-- A single-channel play command plays its note after the sweep is cancelled for channel 0. -/
theorem playOne_eq (f : Freq) {d : Int} {c : Option Int} {k : Chan} (hc : NamesPlayChan c k) (hd : 1 ≤ d)
    (v : Option Int) (s : State) :
    playOne f (playDuration (some d)) (playChan c) v s
      = playNote k f (BitVec.ofNat 32 d.toNat) (playVolume s k v) (cancelSweepFor k s) := by
  rw [playChan_eq_some_iff.mpr hc, playDuration_eq_some_iff.mpr ⟨d, rfl, hd, rfl⟩]
  rfl

theorem playOne_perPass {s : State} (h : PerPass s) (f : Freq) {d : Int} {c : Option Int} {k : Chan}
    (hc : NamesPlayChan c k) (hd : 1 ≤ d) (v : Option Int) :
    playOne f (playDuration (some d)) (playChan c) v s
      = playedState (beforePlay s k) k f (BitVec.ofNat 32 d.toNat) (match v with
          | none => (chanAt s k).volumeChannelDefault
          | some x => volumeOf x) := by
  rw [playOne_eq f hc hd, cancelSweepFor_eq, playNote_perPass (perPass_beforePlay h k)]
  cases v with
  | none => rfl
  | some x => exact congrArg _ (clampVolume_eq_volumeOf x)

/-- Settles O12: FREQ is the single-channel play command of its frequency operand. -/
theorem freqStartsTheNote : Obligations.FreqStartsTheNote :=
  fun _ f _ _ v _ h hc hd _ => congrArg Host.Outcome.next (playOne_perPass h (freqOperand f) hc hd v)

/-- Settles O13: NOTE is the single-channel play command of its mapped note. -/
theorem noteStartsTheNote : Obligations.NoteStartsTheNote :=
  fun s n _ _ v _ h hc hd _ => congrArg Host.Outcome.next (playOne_perPass h (noteOperand s n) hc hd v)

/-- A legacy line is a FREQ on channel 0 at its default volume. -/
theorem exec_legacy_eq_freq (f : Rat) (d : Option Int) (s : State) :
    exec (.legacy f d) s = exec (.freq (some f) d (some 0) none) s := rfl

/-- Settles O16: what FREQ does on channel 0 (O12). -/
theorem legacyStartsTheNoteOnChannelZero : Obligations.LegacyStartsTheNoteOnChannelZero := by
  refine ⟨fun s f d h h1 h2 => ?_, fun s f d => exec_legacy_eq_freq f d s⟩
  rw [exec_legacy_eq_freq]
  exact freqStartsTheNote s (some f) d (some 0) none .left h (by decide) h1 h2

/-- A two-channel play command cancels the sweep and plays one note after the other; the first leaves channel 1, with
its default volume. -/
theorem playBoth_eq (f0 f1 : Freq) {d : Int} (hd : 1 ≤ d) (s : State) :
    playBoth f0 f1 (playDuration (some d)) s
      = playNote .right f1 (BitVec.ofNat 32 d.toNat) (chanAt s .right).volumeChannelDefault
          (playNote .left f0 (BitVec.ofNat 32 d.toNat) (chanAt s .left).volumeChannelDefault (cancelSweep s)) := by
  have hk (k : Chan) : chanAt (cancelSweep s) k = chanAt s k := (sameLane_cancelSweep k s).1.symm
  have hright (f : Freq) (u : U32) (v : U8) : chanAt (playNote .left f u v (cancelSweep s)) .right = chanAt s .right :=
    (sameLane_playNote (by decide) f u v (cancelSweep s)).1.symm.trans (hk .right)
  rw [playDuration_eq_some_iff.mpr ⟨d, rfl, hd, rfl⟩]
  simp only [playBoth, hk, hright]

/-- Settles O14: the second note starts where the first one has left the clock, which is where it was. -/
theorem chordStartsBothNotes : Obligations.ChordStartsBothNotes := by
  intro s n1 n2 d h hd _
  have hcancel : PerPass (sweepCancelled s) := h
  refine congrArg Host.Outcome.next ?_
  rw [playBoth_eq _ _ hd, cancelSweep_eq, playNote_perPass hcancel, playNote_perPass (by exact hcancel)]
  rfl

/-- MONO is a CHORD of the same note twice. -/
theorem exec_mono_eq_chord (n d : Option Int) (s : State) : exec (.mono n d) s = exec (.chord n n d) s := rfl

/-- Settles O15: what CHORD does with the note as both notes (O14). -/
theorem monoStartsTheNoteOnBoth : Obligations.MonoStartsTheNoteOnBoth := by
  intro s n d
  rw [exec_mono_eq_chord]
  exact chordStartsBothNotes s n n d

end Sys2Proof.Machine
end

section
/-! A play command that is carried out leaves its target playing, under any clock sampling (40_play_commands.md R115). -/

namespace Sys2Proof.Machine

theorem freqReal_clampFreq_mem_Icc (f : Freq) : freqReal (clampFreq f) ∈ Set.Icc (20 : ℝ) 8000 := by
  obtain h | h | ⟨hmin, hmax, h⟩ := clampFreq_cases f
  · rw [h]; norm_num [freqReal, fMin]
  · rw [h]; norm_num [freqReal, fMax]
  · rw [h, freqReal_canonFreq]
    exact ⟨by simpa [fMin] using (atLeast_iff (by decide) _).mp hmin,
      by simpa [fMax] using (scaledLe_iff _ _ _).mp hmax⟩

/-- Between `s` and `t`, a note of `d` ms is started on channel `k` at a reading of the clock, and still plays. -/
structure StartsPlaying (k : Chan) (d : U32) (s t : State) (readAt : Nat) : Prop where
  isPlaying : (chanAt t k).isPlaying = true
  envelope : (chanAt t k).envelope = .attack
  noteDuration : (chanAt t k).noteDuration = d
  noteStartTime : (chanAt t k).noteStartTime.toNat = readAt / 1000 % 4294967296
  notBefore : s.time ≤ readAt
  notAfter : readAt ≤ t.time
  perPass : PerPass s → readAt = s.time
  frequency : freqReal (chanAt t k).frequency ∈ Set.Icc (20 : ℝ) 8000

namespace StartsPlaying

variable {k : Chan} {d : U32} {s t u : State} {readAt : Nat}

/-- `Play` reads the note's start time first, before the generator may read the clock again. -/
theorem playNote (k : Chan) (f : Freq) (d : U32) (v : U8) (s : State) :
    StartsPlaying k d s (playNote k f d v s) (readClock s).time := by
  have hch := chanAt_playNote k f d v s
  obtain ⟨-, hle, hperPass⟩ := clockOk_readClock s
  exact {
    isPlaying := by rw [hch]; rfl
    envelope := by rw [hch]; rfl
    noteDuration := by rw [hch]; rfl
    noteStartTime := by rw [hch]; exact BitVec.toNat_ofNat _ _
    notBefore := hle
    notAfter := (clockOk_genStart k (clampFreq f) (setChan k (startNote (clampFreq f)
      (nowMs (readClock (stopChan k s))) d v) (readClock (stopChan k s)))).2.1
    perPass := fun h => (hperPass h).1
    frequency := by rw [hch]; exact freqReal_clampFreq_mem_Icc f }

/-- What comes before the note may read the clock. -/
theorem precededBy (h : StartsPlaying k d t u readAt) (hst : ClockOk s t) : StartsPlaying k d s u readAt := by
  obtain ⟨hpar, hle, hperPass⟩ := hst
  refine { h with notBefore := hle.trans h.notBefore, perPass := fun hs => ?_ }
  have ht : PerPass t := by simpa only [PerPass, hpar] using hs
  exact (h.perPass ht).trans (hperPass hs).1

/-- What comes after the note may be anything that leaves its channel. -/
theorem followedBy (h : StartsPlaying k d s t readAt) (hlane : SameLane k t u) (hclock : ClockOk t u) :
    StartsPlaying k d s u readAt where
  isPlaying := hlane.1 ▸ h.isPlaying
  envelope := hlane.1 ▸ h.envelope
  noteDuration := hlane.1 ▸ h.noteDuration
  noteStartTime := hlane.1 ▸ h.noteStartTime
  notBefore := h.notBefore
  notAfter := h.notAfter.trans hclock.2.1
  perPass := h.perPass
  frequency := hlane.1 ▸ h.frequency

end StartsPlaying

theorem startsPlaying_playOne (f : Freq) {d : Int} {c : Option Int} {k : Chan} (hc : NamesPlayChan c k) (hd : 1 ≤ d)
    (v : Option Int) (s : State) : ∃ readAt, StartsPlaying k (BitVec.ofNat 32 d.toNat) s
      (playOne f (playDuration (some d)) (playChan c) v s) readAt := by
  rw [playOne_eq f hc hd]
  exact ⟨_, (StartsPlaying.playNote k f _ _ _).precededBy (clockOk_cancelSweepFor k s)⟩

theorem startsPlaying_playBoth (f0 f1 : Freq) {d : Int} (hd : 1 ≤ d) (k : Chan) (s : State) :
    ∃ readAt, StartsPlaying k (BitVec.ofNat 32 d.toNat) s (playBoth f0 f1 (playDuration (some d)) s) readAt := by
  rw [playBoth_eq f0 f1 hd]
  have hcancel := clockOk_cancelSweep s
  cases k with
  | left => exact ⟨_, ((StartsPlaying.playNote .left f0 _ _ _).precededBy hcancel).followedBy
      (sameLane_playNote (by decide) f1 _ _ _) (clockOk_playNote .right f1 _ _ _)⟩
  | right => exact ⟨_, (StartsPlaying.playNote .right f1 _ _ _).precededBy
      (clockOk_trans hcancel (clockOk_playNote .left f0 _ _ _))⟩

theorem one_le_of_carriesOut {i : Instr} {k : Chan} {d : Int} (h : CarriesOut i k d) : 1 ≤ d := by
  cases i with
  | freq | note | legacy => exact h.2.1
  | chord | mono => exact h.2
  | volume | stop | status | test | unknown | empty => exact h.elim

theorem exec_startsPlaying {i : Instr} {k : Chan} {d : Int} (h : CarriesOut i k d) (s : State) :
    ∃ t, exec i s = .next t ∧ ∃ readAt, StartsPlaying k (BitVec.ofNat 32 d.toNat) s t readAt := by
  cases i with
  | freq f d' c v =>
    obtain ⟨rfl, hd, hc⟩ := h
    exact ⟨_, rfl, startsPlaying_playOne (freqOperand f) hc hd v s⟩
  | note n d' c v =>
    obtain ⟨rfl, hd, hc⟩ := h
    exact ⟨_, rfl, startsPlaying_playOne (noteOperand s n) hc hd v s⟩
  | chord n1 n2 d' =>
    obtain ⟨rfl, hd⟩ := h
    exact ⟨_, rfl, startsPlaying_playBoth (noteOperand s n1) (noteOperand s n2) hd k s⟩
  | mono n d' =>
    obtain ⟨rfl, hd⟩ := h
    exact ⟨_, rfl, startsPlaying_playBoth (noteOperand s n) (noteOperand s n) hd k s⟩
  | legacy f d' =>
    obtain ⟨rfl, hd, rfl⟩ := h
    exact ⟨_, rfl, startsPlaying_playOne (.hz f) (c := some 0) (by decide) hd none s⟩
  | volume | stop | status | test | unknown | empty => exact h.elim

/-! The play commands that are not carried out. -/

theorem playOne_eq_self (f : Freq) {d c : Option Int} (h : ∀ k x, ¬ (d = some x ∧ 1 ≤ x ∧ NamesPlayChan c k))
    (v : Option Int) (s : State) : playOne f (playDuration d) (playChan c) v s = s := by
  unfold playOne
  split
  · next k u hk hu =>
    obtain ⟨x, hx, hpos, -⟩ := playDuration_eq_some_iff.mp hu
    exact absurd ⟨hx, hpos, playChan_eq_some_iff.mp hk⟩ (h k x)
  · rfl

theorem playBoth_eq_self (f0 f1 : Freq) {d : Option Int} (h : ∀ x, ¬ (d = some x ∧ 1 ≤ x)) (s : State) :
    playBoth f0 f1 (playDuration d) s = s := by
  unfold playBoth
  split
  · rfl
  · next u hu =>
    obtain ⟨x, hx, hpos, -⟩ := playDuration_eq_some_iff.mp hu
    exact absurd ⟨hx, hpos⟩ (h x)

theorem exec_eq_self_of_not_carriesOut {i : Instr} (hi : IsPlayCommand i) (h : ∀ k d, ¬ CarriesOut i k d)
    (s : State) : exec i s = .next s := by
  cases i with
  | freq f d c v => exact congrArg Host.Outcome.next (playOne_eq_self (freqOperand f) h v s)
  | note n d c v => exact congrArg Host.Outcome.next (playOne_eq_self (noteOperand s n) h v s)
  | chord n1 n2 d =>
    exact congrArg Host.Outcome.next (playBoth_eq_self (noteOperand s n1) (noteOperand s n2) (h .left) s)
  | mono n d => exact congrArg Host.Outcome.next (playBoth_eq_self (noteOperand s n) (noteOperand s n) (h .left) s)
  | legacy f d =>
    have h' : ∀ k x, ¬ (d = some x ∧ 1 ≤ x ∧ NamesPlayChan (some 0) k) :=
      fun _ x ⟨hd, hpos, _⟩ => h .left x ⟨hd, hpos, rfl⟩
    exact congrArg Host.Outcome.next (playOne_eq_self (.hz f) h' none s)
  | volume | stop | status | test | unknown | empty => exact hi.elim

/-- Settles O17: `exec_startsPlaying` for a command that is carried out, `exec_eq_self_of_not_carriesOut` for the rest. -/
theorem playCommandLeavesItsTargetPlaying : Obligations.PlayCommandLeavesItsTargetPlaying := by
  refine ⟨fun i k d s h hmax => ?_, fun i s hi h => exec_eq_self_of_not_carriesOut hi h s⟩
  obtain ⟨t, hexec, readAt, ht⟩ := exec_startsPlaying h s
  have hd : ((chanAt t k).noteDuration.toNat : Int) = d := by
    rw [ht.noteDuration]
    exact toNat_ofNat_duration (one_le_of_carriesOut h) hmax
  exact ⟨t, readAt, hexec, ht.isPlaying, ht.envelope, hd, ht.noteStartTime, ht.notBefore, ht.notAfter, ht.perPass,
    ht.frequency⟩

end Sys2Proof.Machine
end

section
/-! VOLUME and STOP name their targets, and each does one thing to every target (41_control_commands.md R140, R141);
UNKNOWN and EMPTY (R146, R147). -/

namespace Sys2Proof.Machine

theorem targetChans_of_number {c : Int} {k : Chan} (h : (c = 0 ∧ k = .left) ∨ (c = 1 ∧ k = .right)) :
    targetChans (some c) = some [k] := by
  obtain ⟨rfl, rfl⟩ | ⟨rfl, rfl⟩ := h <;> rfl

theorem targetChans_eq_none {c : Int} (h0 : c ≠ 0) (h1 : c ≠ 1) : targetChans (some c) = none := by
  simp [targetChans, chanOfInt, h0, h1]

/-- VOLUME with targets sets their default volumes and reports. -/
theorem exec_volume_of_targets {c : Option Int} {targets : List Chan} (hc : targetChans c = some targets)
    (v : Option Int) (s : State) :
    exec (.volume v c) s
      = .next (emit (.volumeAck targets (volumeOf (v.getD 0))) (setDefaults targets (volumeOf (v.getD 0)) s)) := by
  simp only [exec, execVolume, hc, volumeLevel, clampVolume_eq_volumeOf]

/-- STOP with targets cancels the sweep for channel 0, stops its targets and reports. -/
theorem exec_stop_of_targets {c : Option Int} {targets : List Chan} (hc : targetChans c = some targets) (s : State) :
    exec (.stop c) s = .next (emit (.stopAck targets)
      (stopTargets targets (if .left ∈ targets then sweepCancelled s else s))) := by
  simp only [exec, execStop, hc, cancelSweep_eq]

theorem exec_volume_of_no_target {c : Option Int} (hc : targetChans c = none) (v : Option Int) (s : State) :
    exec (.volume v c) s = .next s := by
  simp only [exec, execVolume, hc]

theorem exec_stop_of_no_target {c : Option Int} (hc : targetChans c = none) (s : State) :
    exec (.stop c) s = .next s := by
  simp only [exec, execStop, hc]

/-- Settles O18: the targets of each operand form, and no target for any other channel. -/
theorem volumeSetsTheDefaults : Obligations.VolumeSetsTheDefaults := by
  refine ⟨fun s v => ?_, fun s v c k h => ?_, fun s v c h0 h1 => ?_⟩
  · exact exec_volume_of_targets (targets := [.left, .right]) rfl v s
  · exact exec_volume_of_targets (targetChans_of_number h) v s
  · exact exec_volume_of_no_target (targetChans_eq_none h0 h1) v s

/-- Settles O19: the targets of each operand form, and no target for any other channel. -/
theorem stopStopsItsTargets : Obligations.StopStopsItsTargets := by
  refine ⟨fun s => ?_, fun s => ?_, fun s => ?_, fun s c h0 h1 => ?_⟩
  · exact exec_stop_of_targets (targets := [.left, .right]) rfl s
  · exact exec_stop_of_targets (targets := [.left]) rfl s
  · exact exec_stop_of_targets (targets := [.right]) rfl s
  · exact exec_stop_of_no_target (targetChans_eq_none h0 h1) s

theorem stoppedChannel_of_silent {k : Channel} (hp : k.isPlaying = false) (henv : k.envelope = .idle)
    (hmode : k.generatorMode = .off) (hfreq : k.frequency = .hz 0) (hvol : k.appliedVolume = 0)
    (hlevel : k.pinLevel = false) : stoppedChannel k = k := by
  cases k
  simp_all [stoppedChannel]

/-- Stopping an idle channel changes nothing. -/
theorem stoppedState_of_idle {s : State} {c : Chan} (h : LaneIdle s c) (hp : (chanAt s c).isPlaying = false) :
    stoppedState s c = s := by
  obtain ⟨henv, hmode, hfreq, hvol, hlevel, hpin, htone⟩ := h
  have hch : stoppedChannel (chanAt s c) = s.ch.get c := stoppedChannel_of_silent hp henv hmode hfreq hvol hlevel
  have hgen : (⟨false, (s.tone.get c).freq⟩ : ToneGen) = s.tone.get c := by rw [← htone]
  simp only [stoppedState, hch, ← hpin, hgen, set_get_same]

theorem sweepCancelled_of_inactive {s : State} (h : s.sweepActive = false) : sweepCancelled s = s := by
  rw [← cancelSweep_eq, cancelSweep, h]
  rfl

/-- Settles O20: no sweep to cancel and two idle channels to stop leave the report (O19). -/
theorem stopOnIdleChannelsOnlyReports : Obligations.StopOnIdleChannelsOnlyReports := by
  intro s hleft hright hpl hpr hsweep
  obtain ⟨hstop, -⟩ := stopStopsItsTargets
  rw [hstop, sweepCancelled_of_inactive hsweep, stoppedState_of_idle hleft hpl, stoppedState_of_idle hright hpr]

/-- Settles O25: UNKNOWN is its report, EMPTY is nothing. -/
theorem unknownOnlyReportsAndEmptyDoesNothing : Obligations.UnknownOnlyReportsAndEmptyDoesNothing :=
  fun _ _ => ⟨rfl, rfl⟩

end Sys2Proof.Machine
end

section
/-! After VOLUME, a play command without a volume field takes the level that was set (30_encoding.md R104,
41_control_commands.md R140). -/

namespace Sys2Proof.Machine

/-- The sustain target of a note is the command's volume operand, read before the sweep is cancelled. -/
theorem volumeTarget_playOne (f : Freq) {d : Int} {c : Option Int} {k : Chan} (hc : NamesPlayChan c k) (hd : 1 ≤ d)
    (v : Option Int) (s : State) :
    (chanAt (playOne f (playDuration (some d)) (playChan c) v s) k).volumeTarget = playVolume s k v := by
  rw [playOne_eq f hc hd, chanAt_playNote]
  rfl

/-- VOLUME on one channel leaves the level there. -/
theorem exec_volume_of_number {c : Int} {k : Chan} (h : (c = 0 ∧ k = .left) ∨ (c = 1 ∧ k = .right)) (v : Int)
    (s : State) :
    ∃ t, exec (.volume (some v) (some c)) s = .next t ∧ (chanAt t k).volumeChannelDefault = volumeOf v := by
  refine ⟨_, exec_volume_of_targets (targetChans_of_number h) (some v) s, ?_⟩
  simp [setDefaults]

/-- Settles O26: FREQ and NOTE without a volume field read the default that VOLUME left. -/
theorem volumeThenPlayUsesTheLevel : Obligations.VolumeThenPlayUsesTheLevel := by
  intro s v c k f n d h hd
  obtain ⟨t, hvolume, hdefault⟩ := exec_volume_of_number h v s
  have hc : NamesPlayChan (some c) k := by
    obtain ⟨rfl, rfl⟩ | ⟨rfl, rfl⟩ := h <;> decide
  refine ⟨t, _, _, hvolume, rfl, ?_, rfl, ?_⟩
  · exact (volumeTarget_playOne (freqOperand f) hc hd none t).trans hdefault
  · exact (volumeTarget_playOne (noteOperand t n) hc hd none t).trans hdefault

end Sys2Proof.Machine
end

section
/-! The status reporter (46_status_reporter.md R250, R251). -/

namespace Sys2Proof.Machine

/-- The elapsed time as a number: the 32-bit difference is the difference of the full times modulo 2^32. -/
theorem toNat_elapsed (s : State) (c : Chan) : (elapsed s c).toNat = elapsedMs s c := by
  simp only [elapsed, elapsedMs, nowMs, wrap32, BitVec.toNat_sub, BitVec.toNat_ofNat]
  have hstart := (chanAt s c).noteStartTime.isLt
  omega

theorem sameLane_readForStatus (c k : Chan) (s : State) : SameLane k s (readForStatus c s) := by
  unfold readForStatus
  split
  · exact sameLane_readClock k s
  · exact sameLane_refl k s

theorem readForStatus_perPass {s : State} (h : PerPass s) (c : Chan) : readForStatus c s = s := by
  unfold readForStatus
  split
  · exact readClock_perPass h
  · rfl

theorem chanStatus_eq (s : State) (c : Chan) :
    chanStatus s c = ⟨chanName c, (chanAt s c).volumeChannelDefault,
      if (chanAt s c).isPlaying then .playing (chanAt s c).frequency
        (((chanAt s c).noteDuration.toNat : Int) - elapsedMs s c) else .idle⟩ := by
  simp only [chanStatus, remaining, toNat_elapsed]

theorem chanStatus_activity_of_not_playing {s : State} {c : Chan} (h : (chanAt s c).isPlaying = false) :
    (chanStatus s c).activity = .idle := by
  simp [chanStatus, h]

/-- STATUS, under any clock sampling: one report, whose first part is of channel 0 as it is, and both channels stay. -/
theorem exec_status_report (s : State) : ∃ (t : State) (r : ChanStatus), exec .status s = .next t
    ∧ t.tx = s.tx ++ [.status (chanStatus (readForStatus .left s) .left) r] ∧ ∀ k, SameLane k s t := by
  refine ⟨_, chanStatus (readForStatus .right (readForStatus .left s)) .right, rfl, by simp, fun k => ?_⟩
  exact sameLane_trans (sameLane_readForStatus .left k s)
    (sameLane_trans (sameLane_readForStatus .right k _) (sameLane_emit k _ _))

/-- Settles O22: with one clock sample per pass the reporter's reads of the clock change nothing. -/
theorem statusReportsBothChannels : Obligations.StatusReportsBothChannels := by
  intro s h
  simp only [exec, execStatus, readForStatus_perPass h, chanStatus_eq]
  rfl

/-- Settles O21: STOP leaves channel 0 not playing, and the reporter reads that. -/
theorem stopThenStatusReportsIdle : Obligations.StopThenStatusReportsIdle := by
  intro s
  obtain ⟨-, hstop, -⟩ := stopStopsItsTargets
  set t : State := { stoppedState (sweepCancelled s) .left with tx := (sweepCancelled s).tx ++ [.stopAck [.left]] }
  have hidle : (chanAt (readForStatus .left t) .left).isPlaying = false := by
    rw [← (sameLane_readForStatus .left .left t).1]
    rfl
  obtain ⟨u, r, hstatus, htx, hlanes⟩ := exec_status_report t
  exact ⟨t, u, _, r, hstop s, hstatus, htx, chanStatus_activity_of_not_playing hidle,
    sameLane_execStop (targets := [.left]) rfl (by decide) (hstop s), hlanes .right⟩

end Sys2Proof.Machine
end

section
/-! The TEST sweep (41_control_commands.md R143, R145). -/

namespace Sys2Proof.Machine

/-- `SweepAdvance()` with an entry left plays it on channel 0. -/
theorem sweepAdvance_of_some {s : State} (h : PerPass s) {n : SweepNote}
    (hn : s.par.testSweep[s.sweepIndex]? = some n) :
    sweepAdvance s = playedState { s with sweepIndex := s.sweepIndex + 1 } .left n.freq n.dur
      (chanAt s .left).volumeChannelDefault := by
  have hp : PerPass (setSweep s.sweepActive (s.sweepIndex + 1) s) := h
  simp only [sweepAdvance, hn, playNote_perPass hp]
  rfl

/-- `SweepAdvance()` after the last entry ends the sweep. -/
theorem sweepAdvance_of_none {s : State} (hn : s.par.testSweep[s.sweepIndex]? = none) :
    sweepAdvance s = { s with sweepActive := false, tx := s.tx ++ [.testEnd true] } := by
  simp only [sweepAdvance, hn]
  rfl

/-- Settles O24: TEST is a `SweepAdvance()` from entry 0. -/
theorem testStartsTheSweep : Obligations.TestStartsTheSweep := by
  intro s n rest h hsweep
  have hn : (emit .testStart (setSweep true 0 s)).par.testSweep[(emit .testStart (setSweep true 0 s)).sweepIndex]?
      = some n := by simp [hsweep]
  refine congrArg Host.Outcome.next ?_
  rw [sweepAdvance_of_some (by exact h) hn]
  rfl

/-- The sweep waits while it does not run or channel 0 plays. -/
theorem sweepStep_of_waiting {s : State} (h : s.sweepActive = false ∨ (chanAt s .left).isPlaying = true) :
    sweepStep s = s := by
  obtain h | h := h <;> simp [sweepStep, h]

theorem sweepStep_of_due {s : State} (ha : s.sweepActive = true) (hp : (chanAt s .left).isPlaying = false) :
    sweepStep s = sweepAdvance s := by
  simp [sweepStep, ha, hp]

/-! The pass in which a note expires. -/

theorem expired_iff (s : State) (c : Chan) :
    expired s c = true ↔ (chanAt s c).noteDuration.toNat ≤ elapsedMs s c := by
  rw [expired, decide_eq_true_iff, toNat_elapsed]

theorem transitionCheck_of_expired {s : State} {c : Chan} (hp : (chanAt s c).isPlaying = true)
    (he : expired (readClock s) c = true) : transitionCheck c s = stopChan c (readClock s) := by
  simp [transitionCheck, hp, he]

/-- The phases of a pass before its sweep step, 42_channel_state_machine.md R160. -/
def phasesBeforeSweep (s : State) : State :=
  transitionCheck .right (transitionCheck .left (genAdvance .right (genAdvance .left s)))

theorem phasesBeforeCommand_eq (s : State) : phasesBeforeCommand s = sweepStep (phasesBeforeSweep s) := rfl

theorem clockOk_phasesBeforeSweep (s : State) : ClockOk s (phasesBeforeSweep s) :=
  clockOk_trans (clockOk_genAdvance _ _) (clockOk_trans (clockOk_genAdvance _ _)
    (clockOk_trans (clockOk_transitionCheck _ _) (clockOk_transitionCheck _ _)))

@[simp] theorem phasesBeforeSweep_sweepActive (s : State) : (phasesBeforeSweep s).sweepActive = s.sweepActive := by
  simp [phasesBeforeSweep]

@[simp] theorem phasesBeforeSweep_sweepIndex (s : State) : (phasesBeforeSweep s).sweepIndex = s.sweepIndex := by
  simp [phasesBeforeSweep]

@[simp] theorem phasesBeforeSweep_tx (s : State) : (phasesBeforeSweep s).tx = s.tx := by
  simp [phasesBeforeSweep]

@[simp] theorem default_phasesBeforeSweep (k : Chan) (s : State) :
    (chanAt (phasesBeforeSweep s) k).volumeChannelDefault = (chanAt s k).volumeChannelDefault := by
  simp [phasesBeforeSweep]

/-- `GenAdvance` of either channel writes of a record the applied volume and the two oscillator fields at most. -/
theorem chanAt_genAdvance_of_any (c k : Chan) (s : State) :
    ∃ v l u, chanAt (genAdvance c s) k
      = { chanAt s k with appliedVolume := v, pinLevel := l, lastToggleTime := u } := by
  by_cases hk : k = c
  · subst hk; exact chanAt_genAdvance k s
  · exact ⟨_, _, _, (sameLane_genAdvance hk s).1.symm⟩

@[simp] theorem isPlaying_genAdvance (c k : Chan) (s : State) :
    (chanAt (genAdvance c s) k).isPlaying = (chanAt s k).isPlaying := by
  obtain ⟨v, l, u, hch⟩ := chanAt_genAdvance_of_any c k s
  rw [hch]

theorem expired_genAdvance {s : State} (h : PerPass s) (c k : Chan) : expired (genAdvance c s) k = expired s k := by
  obtain ⟨v, l, u, hch⟩ := chanAt_genAdvance_of_any c k s
  obtain ⟨-, -, hclock⟩ := clockOk_genAdvance c s
  rw [expired, elapsed, nowMs_congr (hclock h).1, hch]
  rfl

/-- The phases stop channel 0 when its note has expired: generating keeps what the check reads, and the check of channel
1 leaves channel 0. -/
theorem isPlaying_phasesBeforeSweep_of_expired {s : State} (h : PerPass s) (hp : (chanAt s .left).isPlaying = true)
    (he : expired s .left = true) : (chanAt (phasesBeforeSweep s) .left).isPlaying = false := by
  have h1 : PerPass (genAdvance .left s) := by simpa only [PerPass, genAdvance_par] using h
  have h2 : PerPass (genAdvance .right (genAdvance .left s)) := by simpa only [PerPass, genAdvance_par] using h
  have hstop := transitionCheck_of_expired (c := .left) (s := genAdvance .right (genAdvance .left s))
    (by simpa using hp) (by rw [readClock_perPass h2, expired_genAdvance h1, expired_genAdvance h, he])
  rw [phasesBeforeSweep, ← (sameLane_transitionCheck (by decide) _).1, hstop, chanAt_stopChan]
  rfl

theorem chanAt_playedState (s : State) (c : Chan) (f : Freq) (d : U32) (v : U8) :
    chanAt (playedState s c f d v) c = playedChannel s c (clampFreq f) d v := get_set_same _ _ _

/-- Settles O43: the sweep step is `SweepAdvance()` when it is due, and in the pass of expiry the phases before it have
stopped channel 0. -/
theorem sweepGoesOnInThePassOfExpiry : Obligations.SweepGoesOnInThePassOfExpiry := by
  refine ⟨fun s => ⟨sweepStep_of_waiting, fun ha hp => ?_⟩, fun s h ha hp he => ?_⟩
  · rw [sweepStep_of_due ha hp]
    exact ⟨fun n h hn => sweepAdvance_of_some h hn, sweepAdvance_of_none⟩
  · obtain ⟨hpar, -, hclock⟩ := clockOk_phasesBeforeSweep s
    have hstopped := isPlaying_phasesBeforeSweep_of_expired h hp ((expired_iff s .left).mpr he)
    have hdue : phasesBeforeCommand s = sweepAdvance (phasesBeforeSweep s) := by
      rw [phasesBeforeCommand_eq, sweepStep_of_due (by simpa using ha) hstopped]
    constructor
    · intro n hn
      have hperPass : PerPass (phasesBeforeSweep s) := by rwa [PerPass, hpar]
      have hstart : (nowMs (phasesBeforeSweep s)).toNat = s.time / 1000 % 4294967296 := by
        rw [nowMs_congr (hclock h).1]
        exact (clockViewsWrap s).2
      rw [hdue, sweepAdvance_of_some hperPass (by simpa [hpar] using hn), chanAt_playedState]
      simpa [playedState, playedChannel] using ⟨ha, hstart⟩
    · intro hn
      rw [hdue, sweepAdvance_of_none (by simpa [hpar] using hn)]
      exact ⟨rfl, hstopped, by simp⟩

end Sys2Proof.Machine
end


section
/-! The clamp of a note's frequency (42_channel_state_machine.md R165). -/

namespace Sys2Proof.Machine

theorem freqReal_note_mono {m n : Int} (h : m ≤ n) : freqReal (.note m) ≤ freqReal (.note n) := by
  have hmn : (m : ℝ) ≤ n := by exact_mod_cast h
  simp only [freqReal]
  gcongr
  norm_num

theorem freqReal_note_le_twenty {n : Int} (h : n ≤ 15) : freqReal (.note n) ≤ 20 := by
  have h15 := (scaledLe_iff 1 20 (.note 15)).mp (by decide)
  exact (freqReal_note_mono h).trans (by simpa using h15)

theorem eightThousand_le_freqReal_note {n : Int} (h : 120 ≤ n) : 8000 ≤ freqReal (.note n) := by
  have h120 := (atLeast_iff (b := 8000) (by decide) (.note 120)).mp (by decide)
  exact le_trans (by simpa using h120) (freqReal_note_mono h)

/-- The clamp sees no difference between a note and one within 512 semitones of A4: where they differ, both lie on the
same side of the range. -/
theorem clamp_freqReal_nearNote (f : Freq) :
    min (max (freqReal (nearNote f)) 20) 8000 = min (max (freqReal f) 20) 8000 := by
  cases f with
  | hz q => rfl
  | free r => rfl
  | note n =>
    obtain hlow | hhigh | hnear : n ≤ -443 ∨ 581 ≤ n ∨ nearNote (.note n) = .note n := by
      simp only [nearNote, a4Note, Freq.note.injEq]
      omega
    · have hnear : nearNote (.note n) = .note (-443) := by
        simp only [nearNote, a4Note, Freq.note.injEq]
        omega
      rw [hnear, max_eq_right (freqReal_note_le_twenty (by decide)),
        max_eq_right (freqReal_note_le_twenty (hlow.trans (by decide)))]
    · have hnear : nearNote (.note n) = .note 581 := by
        simp only [nearNote, a4Note, Freq.note.injEq]
        omega
      rw [hnear, min_eq_right (le_max_of_le_left (eightThousand_le_freqReal_note (by decide))),
        min_eq_right (le_max_of_le_left (eightThousand_le_freqReal_note (le_trans (by decide) hhigh)))]
    · rw [hnear]

/-- Settles O47: the comparisons of the clamp are those of the reals, and `nearNote` moves no real across a bound. -/
theorem playedFrequencyIsTheClampedReal : Obligations.PlayedFrequencyIsTheClampedReal := by
  intro f
  rw [← clamp_freqReal_nearNote]
  have hmin : atLeast fMin (nearNote f) = true ↔ (20 : ℝ) ≤ freqReal (nearNote f) := by
    simpa [fMin] using atLeast_iff (b := fMin) (by decide) (nearNote f)
  have hmax : scaledLe 1 (nearNote f) fMax = true ↔ freqReal (nearNote f) ≤ 8000 := by
    simpa [fMax] using scaledLe_iff 1 fMax (nearNote f)
  simp only [clampFreq, Bool.not_eq_true', ← Bool.not_eq_true, hmin, hmax, not_le]
  split
  · next hlow => rw [max_eq_right hlow.le]; norm_num [freqReal, fMin]
  · next hlow =>
    rw [max_eq_left (not_lt.mp hlow)]
    split
    · next hhigh => rw [min_eq_right hhigh.le]; norm_num [freqReal, fMax]
    · next hhigh => rw [min_eq_left (not_lt.mp hhigh), freqReal_canonFreq]

end Sys2Proof.Machine
end

section
/-! A Dispatch step: the phases, then the line (42_channel_state_machine.md R160, R164). -/

namespace Sys2Proof.Machine

/-- When it is Dispatch's turn and no input was refused, the step is the Command phase after the phases before it. -/
theorem step_eq_commandPhase {s s0 : State} (h0 : dispatchState s = some s0) (hr : s.refused = false) :
    step s = commandPhase (phasesBeforeCommand s0) := by
  have hr0 : s0.refused = false := by rw [dispatchState_eq h0]; exact hr
  rw [step_of_dispatchState h0, dispatchPass, hr0]
  rfl

/-- Dispatch's turn and the phases leave the receive stream. -/
theorem phasesBeforeCommand_rx_of_dispatchState {s s0 : State} (h0 : dispatchState s = some s0) :
    (phasesBeforeCommand s0).rx = s.rx := by
  rw [phasesBeforeCommand_rx, dispatchState_eq h0]

theorem phasesBeforeCommand_par_of_dispatchState {s s0 : State} (h0 : dispatchState s = some s0) :
    (phasesBeforeCommand s0).par = s.par := by
  rw [phasesBeforeCommand_par, dispatchState_eq h0]

theorem commandPhase_of_line {s : State} {line rest : List Byte} {i : Instr} (hrx : s.rx = line ++ Text.lf :: rest)
    (hline : Text.lf ∉ line) (hi : decode s.par.lineMax line = .ok i) :
    commandPhase s = exec i { s with rx := rest } := by
  simp only [commandPhase, hrx, takeLine_of_line hline, hi]

theorem commandPhase_of_no_line {s : State} (h : Text.lf ∉ s.rx) : commandPhase s = .next s := by
  simp only [commandPhase, takeLine_eq_none_of_not_mem h]

/-- Settles O30: the phases leave the stream and LINE_MAX, so the Command phase decodes the line that came in. -/
theorem stepRunsTheDecodedLine : Obligations.StepRunsTheDecodedLine := by
  intro s s0 line rest i h0 hr hrx hline hi
  rw [step_eq_commandPhase h0 hr]
  exact commandPhase_of_line ((phasesBeforeCommand_rx_of_dispatchState h0).trans hrx) hline
    (by rwa [phasesBeforeCommand_par_of_dispatchState h0])

/-- Settles O31: the phases leave the stream, so the Command phase finds no line. -/
theorem stepWithoutALineRunsThePhases : Obligations.StepWithoutALineRunsThePhases := by
  intro s s0 h0 hr hrx
  rw [step_eq_commandPhase h0 hr]
  exact commandPhase_of_no_line (by rwa [phasesBeforeCommand_rx_of_dispatchState h0])

end Sys2Proof.Machine
end

section
/-! The Transition phase and the Generate phase in SoftwareToggle, with one clock sample per pass
(42_channel_state_machine.md R162, R163; 44_waveform_generator.md R204, R205). -/

namespace Sys2Proof.Machine

theorem releaseDue_iff (s : State) (c : Chan) :
    releaseDue s c = true ↔ ((chanAt s c).envelope = .attack ∨ (chanAt s c).envelope = .sustain)
      ∧ max 0 (((chanAt s c).noteDuration.toNat : Int) - s.par.releaseTime) ≤ elapsedMs s c := by
  simp only [releaseDue, toNat_elapsed, Bool.and_eq_true, Bool.or_eq_true, beq_iff_eq, decide_eq_true_iff]
  refine and_congr_right fun _ => ?_
  omega

theorem sustainDue_iff (s : State) (c : Chan) :
    sustainDue s c = true ↔ (chanAt s c).envelope = .attack ∧ s.par.attackTime ≤ elapsedMs s c := by
  simp only [sustainDue, toNat_elapsed, Bool.and_eq_true, beq_iff_eq, decide_eq_true_iff]

theorem enterRelease_perPass {s : State} (h : PerPass s) (c : Chan) :
    enterRelease c s = { s with ch := s.ch.set c { chanAt s c with
      envelope := .release, releaseStartTime := nowMs s, releaseStartVolume := (chanAt s c).appliedVolume } } := by
  rw [enterRelease, readClock_perPass h]
  rfl

theorem transitionCheck_of_not_playing {c : Chan} {s : State} (h : (chanAt s c).isPlaying = false) :
    transitionCheck c s = s := by
  simp [transitionCheck, h]

/-- Settles O40: the model's three conditions are the rules' (`expired_iff`, `releaseDue_iff`, `sustainDue_iff`). -/
theorem transitionFollowsItsPrecedence : Obligations.TransitionFollowsItsPrecedence := by
  intro s c
  refine ⟨transitionCheck_of_not_playing, fun h hp => ?_⟩
  simp only [transitionCheck, if_pos hp, readClock_perPass h, expired_iff, releaseDue_iff, sustainDue_iff,
    stopChan_eq, enterRelease_perPass h]
  rfl

theorem toggleDue_eq (s : State) (c : Chan) :
    toggleDue s c = decide ((chanAt s c).toggleIntervalMicros.toNat
      ≤ ((s.time : Int) - (chanAt s c).lastToggleTime.toNat) % 4294967296) := by
  rw [toggleDue, decide_eq_decide, nowUs, wrap32, BitVec.toNat_sub, BitVec.toNat_ofNat]
  have hlast := (chanAt s c).lastToggleTime.isLt
  omega

theorem swOutput_perPass {s : State} (h : PerPass s) (c : Chan) :
    swOutput c s = setPin c (.level (dutyLevel s.par.dutyShape (chanAt s c).appliedVolume (chanAt s c).pinLevel
      (nowUs s - (chanAt s c).lastToggleTime).toNat (chanAt s c).toggleIntervalMicros.toNat)) s := by
  simp only [swOutput, readClock_perPass h]

theorem swToggle_perPass {s : State} (h : PerPass s) (c : Chan) :
    swToggle c s = setChan c (fun k => { k with pinLevel := !k.pinLevel, lastToggleTime := nowUs s }) s := by
  simp only [swToggle, readClock_perPass h]

theorem swAdvance_perPass {s : State} (h : PerPass s) (c : Chan) :
    swAdvance c s = swOutput c (if toggleDue s c then swToggle c s else s) := by
  simp only [swAdvance, readClock_perPass h]

theorem genAdvance_of_softwareToggle {s : State} {c : Chan} (h : PerPass s) (hp : (chanAt s c).isPlaying = true)
    (hm : (chanAt s c).generatorMode = .softwareToggle) :
    genAdvance c s = swAdvance c (setChan c (fun k => { k with appliedVolume := envelopeOutput s c }) s) := by
  simp only [genAdvance, hp, if_true, readClock_perPass h, chanAt_setChan_same, hm]

/-- Settles O41: `swToggle` in the case that is due, else the record as it is, and then the pin's level. -/
theorem softwareToggleFollowsItsInterval : Obligations.SoftwareToggleFollowsItsInterval := by
  intro s c due h hp hm hdue
  set u := setChan c (fun k => { k with appliedVolume := envelopeOutput s c }) s with hu
  have hchu : chanAt u c = { chanAt s c with appliedVolume := envelopeOutput s c } := chanAt_setChan_same _ _ _
  have hperPass : PerPass u := h
  have htoggle : toggleDue u c = due := by rw [toggleDue_eq, hchu, hdue]; rfl
  rw [genAdvance_of_softwareToggle h hp hm, swAdvance_perPass hperPass, htoggle]
  cases due with
  | true =>
    rw [if_pos rfl, swToggle_perPass hperPass, swOutput_perPass (by exact h)]
    simp [hu, setPin, setChan, chanAt, nowUs, wrap32]
  | false =>
    rw [if_neg Bool.false_ne_true, swOutput_perPass hperPass]
    simp [hu, setPin, setChan, chanAt, nowUs, wrap32]

end Sys2Proof.Machine
end

section
/-! What a pass does to the record of a channel, under any clock sampling: its own transition check, then operations
of the sweep step and of the command, each of which keeps the record, stops the channel or starts a note
(42_channel_state_machine.md R160 to R166). -/

namespace Sys2Proof.Machine

/-- What an operation of the sweep step or of a command may make of a channel's record: all but the default volume is
kept, the channel is stopped, or a note of a `legal` duration starts at `startMs`. -/
inductive RecordChange (legal : U32 → Prop) (startMs : U32) (old new : Channel) : Prop where
  | kept (v : U8) (h : new = { old with volumeChannelDefault := v })
  | stopped (h : new = stoppedChannel old)
  | started (henv : new.envelope = .attack) (hstart : new.noteStartTime = startMs) (hd : legal new.noteDuration)

/-- From `s` to `t`, the record of channel `k` changes so; a note starts at the first reading of the clock. -/
abbrev RecordStep (legal : U32 → Prop) (k : Chan) (s t : State) : Prop :=
  RecordChange legal (nowMs (readClock s)) (chanAt s k) (chanAt t k)

variable {legal : U32 → Prop}

theorem recordStep_of_sameLane {k : Chan} {s t : State} (h : SameLane k s t) : RecordStep legal k s t :=
  .kept (chanAt s k).volumeChannelDefault h.1.symm

theorem recordStep_stopChan (c k : Chan) (s : State) : RecordStep legal k s (stopChan c s) := by
  by_cases hk : k = c
  · subst hk; exact .stopped (chanAt_stopChan k s)
  · exact recordStep_of_sameLane (sameLane_stopChan hk s)

theorem recordStep_playNote (c k : Chan) (f : Freq) {d : U32} (hd : legal d) (v : U8) (s : State) :
    RecordStep legal k s (playNote c f d v s) := by
  by_cases hk : k = c
  · subst hk
    rw [RecordStep, chanAt_playNote]
    exact .started rfl rfl hd
  · exact recordStep_of_sameLane (sameLane_playNote hk f d v s)

theorem recordStep_setDefault (c k : Chan) (v : U8) (s : State) :
    RecordStep legal k s (setChan c (fun r => { r with volumeChannelDefault := v }) s) := by
  by_cases hk : k = c
  · subst hk; exact .kept v (chanAt_setChan_same _ _ _)
  · exact recordStep_of_sameLane (sameLane_setChan hk _ s)

theorem recordStep_sweepAdvance {s : State} (hsweep : ∀ n ∈ s.par.testSweep, legal n.dur) (k : Chan) :
    RecordStep legal k s (sweepAdvance s) := by
  unfold sweepAdvance
  split
  · next n hn =>
    have hd : legal n.dur := hsweep n (List.mem_of_getElem? hn)
    exact recordStep_playNote .left k n.freq hd _ (setSweep s.sweepActive (s.sweepIndex + 1) s)
  · exact recordStep_of_sameLane ⟨rfl, rfl, rfl⟩

theorem recordStep_sweepStep {s : State} (hsweep : ∀ n ∈ s.par.testSweep, legal n.dur) (k : Chan) :
    RecordStep legal k s (sweepStep s) := by
  unfold sweepStep
  split
  · exact recordStep_sweepAdvance hsweep k
  · exact recordStep_of_sameLane (sameLane_refl k s)

theorem CommandOp.recordStep {i : Instr} {s t : State} (op : CommandOp i s t)
    (hplay : ∀ d, playDuration (durationField i) = some d → legal d) (hsweep : ∀ n ∈ s.par.testSweep, legal n.dur)
    (k : Chan) : RecordStep legal k s t := by
  cases op with
  | report r => exact recordStep_of_sameLane (sameLane_emit k r s)
  | clock => exact recordStep_of_sameLane (sameLane_readClock k s)
  | cancel => exact recordStep_of_sameLane (sameLane_cancelSweep k s)
  | stop c => exact recordStep_stopChan c k s
  | play c f v _ hd => exact recordStep_playNote c k f (hplay _ hd) v s
  | setDefault c v => exact recordStep_setDefault c k v s
  | startSweep => exact recordStep_of_sameLane (sameLane_setSweep k _ _ s)
  | advance => exact recordStep_sweepAdvance hsweep k

/-- The phases before the sweep step leave of channel `k` what its own transition check leaves, of a state in which the
generators have advanced: the check of the other channel leaves this one. -/
theorem exists_chanAt_phasesBeforeSweep (k : Chan) (s : State) :
    ∃ u, ClockOk s u ∧ (chanAt u k).envelope = (chanAt s k).envelope
      ∧ chanAt (phasesBeforeSweep s) k = chanAt (transitionCheck k u) k := by
  set g := genAdvance .right (genAdvance .left s) with hg
  have hclock : ClockOk s g := clockOk_trans (clockOk_genAdvance .left s) (clockOk_genAdvance .right _)
  have henv : (chanAt g k).envelope = (chanAt s k).envelope := by
    obtain ⟨_, _, _, hleft⟩ := chanAt_genAdvance_of_any .left k s
    obtain ⟨_, _, _, hright⟩ := chanAt_genAdvance_of_any .right k (genAdvance .left s)
    rw [hg, hright, hleft]
  cases k with
  | left => exact ⟨g, hclock, henv, (sameLane_transitionCheck (by decide) _).1.symm⟩
  | right =>
    have hkeep := (sameLane_transitionCheck (c := .left) (k := .right) (by decide) g).1
    exact ⟨transitionCheck .left g, clockOk_trans hclock (clockOk_transitionCheck .left g), hkeep ▸ henv, rfl⟩

/-- What does not depend on the receive stream and the mark, and every operation of a classified line keeps, the Command
phase keeps. -/
theorem commandPhase_keeps {P : State → Prop}
    (hstream : ∀ u rx refused, P u → P { u with rx := rx, refused := refused })
    (hop : ∀ raw u w, CommandOp (classify raw) u w → P u → P w) {s t : State} (h : commandPhase s = .next t)
    (hs : P s) : P t := by
  obtain ⟨-, rfl⟩ | ⟨line, rest, -, -, ⟨-, rfl⟩ | ⟨i, hi, hexec⟩⟩ := commandPhase_cases h
  · exact hs
  · exact hstream _ rest true hs
  · rw [eq_classify_of_decode hi] at hexec
    exact exec_keeps (hop line) hexec (hstream s rest s.refused hs)

theorem commandPhase_of_dispatchPass {s t : State} (h : dispatchPass s = .next t) :
    commandPhase (phasesBeforeCommand s) = .next t := by
  unfold dispatchPass at h
  split at h
  · cases h
  · exact h

end Sys2Proof.Machine
end

section
/-! The envelope's transitions (42_channel_state_machine.md R171). -/

namespace Sys2Proof.Machine

/-- The table's edges into Sustain and Release, with those two kept. -/
abbrev FollowsTable (e e' : Envelope) : Prop :=
  (e' = .sustain → e = .attack ∨ e = .sustain) ∧ (e' = .release → e = .attack ∨ e = .sustain ∨ e = .release)

theorem followsTable_refl (e : Envelope) : FollowsTable e e := ⟨.inr, fun h => .inr (.inr h)⟩

/-- After the transition check nothing enters Sustain or Release. -/
theorem RecordChange.followsTable {legal : U32 → Prop} {startMs : U32} {old new : Channel} {e : Envelope}
    (h : RecordChange legal startMs old new) (he : FollowsTable e old.envelope) : FollowsTable e new.envelope := by
  cases h with
  | kept v h => rw [h]; exact he
  | stopped h => rw [h]; exact ⟨nofun, nofun⟩
  | started henv => rw [henv]; exact ⟨nofun, nofun⟩

/-- The check enters Release from Attack or Sustain and Sustain from Attack, by its conditions. -/
theorem followsTable_transitionCheck (c : Chan) (s : State) :
    FollowsTable (chanAt s c).envelope (chanAt (transitionCheck c s) c).envelope := by
  simp only [transitionCheck]
  split
  · split
    · rw [chanAt_stopChan]; exact ⟨nofun, nofun⟩
    · split
      · next hrelease =>
        obtain ⟨henv, -⟩ := (releaseDue_iff (readClock s) c).mp hrelease
        rw [enterRelease, chanAt_setChan_same]
        exact ⟨nofun, fun _ => or_assoc.mp (.inl henv)⟩
      · split
        · next hsustain =>
          obtain ⟨henv, -⟩ := (sustainDue_iff (readClock s) c).mp hsustain
          rw [chanAt_setChan_same]
          exact ⟨fun _ => .inl henv, nofun⟩
        · exact followsTable_refl _
  · exact followsTable_refl _

theorem followsTable_phasesBeforeCommand (c : Chan) (s : State) :
    FollowsTable (chanAt s c).envelope (chanAt (phasesBeforeCommand s) c).envelope := by
  obtain ⟨u, -, henv, hcheck⟩ := exists_chanAt_phasesBeforeSweep c s
  rw [phasesBeforeCommand_eq, ← henv]
  refine (recordStep_sweepStep (legal := fun _ => True) (fun _ _ => trivial) c).followsTable ?_
  rw [hcheck]
  exact followsTable_transitionCheck c u

theorem followsTable_dispatchPass {s t : State} (h : dispatchPass s = .next t) (c : Chan) :
    FollowsTable (chanAt s c).envelope (chanAt t c).envelope :=
  commandPhase_keeps (P := fun u => FollowsTable (chanAt s c).envelope (chanAt u c).envelope) (fun _ _ _ hu => hu)
    (fun _ _ _ op hu =>
      (op.recordStep (legal := fun _ => True) (fun _ _ => trivial) (fun _ _ => trivial) c).followsTable hu)
    (commandPhase_of_dispatchPass h) (followsTable_phasesBeforeCommand c s)

theorem followsTable_agentStep {m : Move} {s t : State} (h : agentStep m s = .next t) (c : Chan) :
    FollowsTable (chanAt s c).envelope (chanAt t c).envelope := by
  cases m with
  | dispatch => exact followsTable_dispatchPass h c
  | send b =>
    simp only [agentStep, hostSend] at h
    split at h
    · cases h; exact followsTable_refl _
    · cases h
  | read => cases h; exact followsTable_refl _
  | advance us => cases h; exact followsTable_refl _

/-- Settles O38: only a transition check enters Sustain or Release, and in a pass it is the first to write the
envelope. -/
theorem envelopeMovesOnlyAlongTheTable : Obligations.EnvelopeMovesOnlyAlongTheTable := by
  intro s t c h
  obtain ⟨m, agenda, draws, hm⟩ := step_eq_agentStep s
  exact followsTable_agentStep (s := { s with agenda := agenda, draws := draws }) (hm.symm.trans h) c

end Sys2Proof.Machine
end

section
/-! With one clock sample per pass, no note outlives its duration (42_channel_state_machine.md R175). -/

namespace Sys2Proof.Machine

/-- Channel `k`, if it plays, is within its note's duration. -/
abbrev PlaysWithin (s : State) (k : Chan) : Prop :=
  (chanAt s k).isPlaying = true → elapsedMs s k < (chanAt s k).noteDuration.toNat

theorem playsWithin_congr {s t : State} {k : Chan} (htime : t.time = s.time) (hch : chanAt t k = chanAt s k)
    (h : PlaysWithin s k) : PlaysWithin t k := by
  simpa only [PlaysWithin, elapsedMs, htime, hch] using h

/-- The transition check stops a channel whose note has expired. -/
theorem playsWithin_transitionCheck {s : State} (h : PerPass s) (k : Chan) : PlaysWithin (transitionCheck k s) k := by
  obtain ⟨hidle, hplaying⟩ := transitionFollowsItsPrecedence s k
  cases hp : (chanAt s k).isPlaying with
  | false => rw [hidle hp]; intro hp'; simp [hp] at hp'
  | true =>
    rw [hplaying h hp]
    split
    · intro hp'; simp [stoppedState, stoppedChannel, chanAt] at hp'
    · next hwithin =>
      have hkeep (r : Channel) (hstart : r.noteStartTime = (chanAt s k).noteStartTime)
          (hdur : r.noteDuration = (chanAt s k).noteDuration) : PlaysWithin { s with ch := s.ch.set k r } k := by
        intro _
        simpa [elapsedMs, chanAt, hstart, hdur] using hwithin
      split
      · exact hkeep _ rfl rfl
      · split
        · exact hkeep _ rfl rfl
        · exact fun _ => not_le.mp hwithin

/-- A note that starts has its whole duration before it. -/
theorem RecordChange.playsWithin {s t : State} {k : Chan} (h : RecordStep (fun d => durationOk d = true) k s t)
    (hp : PerPass s) (htime : t.time = s.time) (hs : PlaysWithin s k) : PlaysWithin t k := by
  cases h with
  | kept v h => simpa only [PlaysWithin, elapsedMs, htime, h] using hs
  | stopped h => intro hp'; simp [h, stoppedChannel] at hp'
  | started _ hstart hd =>
    intro _
    obtain ⟨hpos, -⟩ := of_decide_eq_true hd
    rw [← toNat_elapsed, elapsed, hstart, readClock_perPass hp, nowMs_congr htime, BitVec.sub_self]
    exact hpos

/-- One clock sample per pass, legal parameters, and every channel that plays within its note's duration. -/
structure OnTime (s : State) : Prop where
  perPass : PerPass s
  par : paramsOk s.par = true
  within : ∀ k, PlaysWithin s k

theorem durationOk_of_mem_sweep {p : Params} (h : paramsOk p = true) : ∀ n ∈ p.testSweep, durationOk n.dur = true := by
  intro n hn
  obtain ⟨i, hi⟩ := List.getElem?_of_mem hn
  exact durationOk_of_sweep (sweepOk_of_paramsOk h) hi

theorem OnTime.recordStep {s t : State} (h : OnTime s) (hclock : ClockOk s t)
    (hrecord : ∀ k, RecordStep (fun d => durationOk d = true) k s t) : OnTime t where
  perPass := by rw [PerPass, hclock.1]; exact h.perPass
  par := hclock.1 ▸ h.par
  within k := (hrecord k).playsWithin h.perPass (hclock.2.2 h.perPass).1 (h.within k)

theorem onTime_phasesBeforeSweep {s : State} (hp : PerPass s) (hpar : paramsOk s.par = true) :
    OnTime (phasesBeforeSweep s) := by
  obtain ⟨hpar', -, htime⟩ := clockOk_phasesBeforeSweep s
  refine ⟨by rwa [PerPass, hpar'], hpar' ▸ hpar, fun k => ?_⟩
  obtain ⟨u, ⟨hparU, -, htimeU⟩, -, hcheck⟩ := exists_chanAt_phasesBeforeSweep k s
  have hpU : PerPass u := by rwa [PerPass, hparU]
  obtain ⟨-, -, htimeCheck⟩ := clockOk_transitionCheck k u
  refine playsWithin_congr ?_ hcheck (playsWithin_transitionCheck hpU k)
  rw [(htime hp).1, (htimeCheck hpU).1, (htimeU hp).1]

theorem onTime_dispatchPass {s t : State} (hp : PerPass s) (hpar : paramsOk s.par = true)
    (h : dispatchPass s = .next t) : OnTime t := by
  have hphases := onTime_phasesBeforeSweep hp hpar
  have hsweep : OnTime (phasesBeforeCommand s) :=
    hphases.recordStep (clockOk_sweepStep _) (recordStep_sweepStep (durationOk_of_mem_sweep hphases.par))
  refine commandPhase_keeps (fun _ _ _ hu => ⟨hu.perPass, hu.par, hu.within⟩) (fun raw _ _ op hu => ?_)
    (commandPhase_of_dispatchPass h) hsweep
  exact hu.recordStep op.frame.clock (op.recordStep
    (fun _ hd => durationOk_of_playDuration (okInt_durationField_classify raw) hd) (durationOk_of_mem_sweep hu.par))

/-- Settles O39: the transition checks stop the expired notes, and what starts after them has a legal duration. -/
theorem noNoteOutlivesItsDuration : Obligations.NoNoteOutlivesItsDuration := by
  intro s s0 t c hp hpar h0 hstep
  have hpar0 : s0.par = s.par := by rw [dispatchState_eq h0]
  have hpass : dispatchPass s0 = .next t := (step_of_dispatchState h0).symm.trans hstep
  exact (onTime_dispatchPass (by rwa [PerPass, hpar0]) (by rwa [hpar0]) hpass).within c

end Sys2Proof.Machine
end

section
/-! The frequency mapper (43_frequency_mapper.md R190, R193): the exact map has its four properties as a formula, a free
one brings them with it. -/

namespace Sys2Proof.Machine

/-- P1: A4 is the tuning reference. -/
theorem freqReal_note_a4 : freqReal (.note 69) = 440 := by
  norm_num [freqReal]

/-- P2: the exponent of the formula grows by one every twelve notes. -/
theorem freqReal_note_add_twelve (n : Int) : freqReal (.note (n + 12)) = 2 * freqReal (.note n) := by
  have hexp : (((n + 12 : Int) : ℝ) - 69) / 12 = ((n : ℝ) - 69) / 12 + 1 := by push_cast; ring
  simp only [freqReal, hexp, Real.rpow_add_one (two_ne_zero : (2 : ℝ) ≠ 0)]
  ring

/-- P3: the exponent of the formula grows with the note. -/
theorem freqReal_note_lt {n k : Int} (h : n < k) : freqReal (.note n) < freqReal (.note k) := by
  have hnk : (n : ℝ) < k := by exact_mod_cast h
  have hexp : ((n : ℝ) - 69) / 12 < ((k : ℝ) - 69) / 12 := by linarith
  exact mul_lt_mul_of_pos_left (Real.rpow_lt_rpow_of_exponent_lt one_lt_two hexp) (by norm_num)

/-- The properties that a free map carries hold of the reals that its notes stand for. -/
theorem freqReal_mapped_legal (id : Nat) :
    freqReal (.free (.mapped id 69)) = 440
      ∧ (∀ n : Int, |freqReal (.free (.mapped id (n + 12))) - 2 * freqReal (.free (.mapped id n))|
          ≤ (octaveTolerance (.other id) : ℝ) * freqReal (.free (.mapped id n)))
      ∧ StrictMono (fun n : Int => freqReal (.free (.mapped id n)))
      ∧ ∀ n : Int, 0 < freqReal (.free (.mapped id n)) :=
  (Config.noteMap id).legal.choose_spec.2

/-- Settles O48: the formula has the properties, the exact one without a tolerance, and a free map carries them. -/
theorem frequencyMapHasItsProperties : Obligations.FrequencyMapHasItsProperties := by
  refine ⟨fun m => ?_, fun n => ⟨rfl, freqReal_note_add_twelve n⟩⟩
  cases m with
  | exact =>
    refine ⟨freqReal_note_a4, fun n => ?_, fun _ _ => freqReal_note_lt, freqReal_note_pos⟩
    simp [freqMap, octaveTolerance, freqReal_note_add_twelve]
  | other id =>
    obtain ⟨ha4, hoctave, hmono, hpos⟩ := freqReal_mapped_legal id
    exact ⟨ha4, hoctave, fun _ _ h => hmono h, hpos⟩

end Sys2Proof.Machine
end

section
/-! The frequency and the generator mode that a played frequency gets, and the notes between which they change
(43_frequency_mapper.md R192). -/

namespace Sys2Proof.Machine

theorem freqReal_frequency_playNote (c : Chan) (f : Freq) (d : U32) (v : U8) (s : State) :
    freqReal (chanAt (playNote c f d v s) c).frequency = min (max (freqReal f) 20) 8000 := by
  rw [chanAt_playNote]
  exact playedFrequencyIsTheClampedReal f

/-- The clamp moves no frequency across the threshold of 44_waveform_generator.md R200. -/
theorem aboveThreshold_clampFreq_iff (f : Freq) : aboveThreshold (clampFreq f) = true ↔ 1000 < freqReal f := by
  rw [aboveThreshold_iff, playedFrequencyIsTheClampedReal, lt_min_iff, lt_max_iff]
  norm_num

theorem playNote_hardwareTone {f : Freq} (h : 1000 < freqReal f) (c : Chan) (d : U32) (v : U8) (s : State) :
    (chanAt (playNote c f d v s) c).generatorMode = .hardwareTone := by
  rw [chanAt_playNote]
  exact if_pos ((aboveThreshold_clampFreq_iff f).mpr h)

theorem playNote_softwareToggle {f : Freq} (h : freqReal f ≤ 1000) (c : Chan) (d : U32) (v : U8) (s : State) :
    (chanAt (playNote c f d v s) c).generatorMode = .softwareToggle := by
  rw [chanAt_playNote]
  exact if_neg (mt (aboveThreshold_clampFreq_iff f).mp h.not_gt)

/-! The notes next to each bound, by the integer comparison of one note and monotonicity. -/

theorem twenty_le_freqReal_note {n : Int} (h : 16 ≤ n) : 20 ≤ freqReal (.note n) := by
  have h16 := (atLeast_iff (b := 20) (by decide) (.note 16)).mp (by decide)
  exact le_trans (by simpa using h16) (freqReal_note_mono h)

theorem freqReal_note_le_thousand {n : Int} (h : n ≤ 83) : freqReal (.note n) ≤ 1000 := by
  have h83 := (scaledLe_iff 1 1000 (.note 83)).mp (by decide)
  exact (freqReal_note_mono h).trans (by simpa using h83)

theorem thousand_lt_freqReal_note {n : Int} (h : 84 ≤ n) : 1000 < freqReal (.note n) :=
  ((aboveThreshold_iff (.note 84)).mp (by decide)).trans_le (freqReal_note_mono h)

theorem freqReal_note_le_eightThousand {n : Int} (h : n ≤ 119) : freqReal (.note n) ≤ 8000 := by
  have h119 := (scaledLe_iff 1 8000 (.note 119)).mp (by decide)
  exact (freqReal_note_mono h).trans (by simpa using h119)

/-- A note within the range of the clamp plays at its own frequency. -/
theorem freqReal_frequency_playNote_of_note {n : Int} (hmin : 16 ≤ n) (hmax : n ≤ 119) (c : Chan) (d : U32) (v : U8)
    (s : State) : freqReal (chanAt (playNote c (.note n) d v s) c).frequency = freqReal (.note n) := by
  rw [freqReal_frequency_playNote, max_eq_left (twenty_le_freqReal_note hmin),
    min_eq_left (freqReal_note_le_eightThousand hmax)]

/-- Settles O49: the clamp and the threshold (`playNote_hardwareTone`, `playNote_softwareToggle`) at the notes on either
side of 20, 1000 and 8000 Hz. -/
theorem notesReachTheirGeneratorModes : Obligations.NotesReachTheirGeneratorModes := by
  rintro s c n d v k rfl
  simp only [freqMap]
  refine ⟨fun h => ⟨?_, playNote_softwareToggle (freqReal_note_le_thousand (by omega)) c d v s⟩,
    fun hmin hmax => ⟨freqReal_frequency_playNote_of_note hmin (by omega) c d v s,
      playNote_softwareToggle (freqReal_note_le_thousand hmax) c d v s⟩,
    fun hmin hmax => ⟨freqReal_frequency_playNote_of_note (by omega) hmax c d v s,
      playNote_hardwareTone (thousand_lt_freqReal_note hmin) c d v s⟩,
    fun h => ⟨?_, playNote_hardwareTone (thousand_lt_freqReal_note (by omega)) c d v s⟩⟩
  · rw [freqReal_frequency_playNote, max_eq_right (freqReal_note_le_twenty h)]
    norm_num
  · rw [freqReal_frequency_playNote, min_eq_right (le_max_of_le_left (eightThousand_le_freqReal_note h))]

end Sys2Proof.Machine
end

section
/-! What the volume does to the output (44_waveform_generator.md): nothing in HardwareTone (R208), and in SoftwareToggle
what the duty shape makes of it (R206). -/

namespace Sys2Proof.Machine

/-- In HardwareTone the Generate phase reads the clock and writes the applied volume, under any clock sampling. -/
theorem genAdvance_of_hardwareTone {s : State} {c : Chan} (hp : (chanAt s c).isPlaying = true)
    (hm : (chanAt s c).generatorMode = .hardwareTone) :
    genAdvance c s = setChan c (fun k => { k with appliedVolume := envelopeOutput (readClock s) c }) (readClock s) := by
  simp only [genAdvance, hp, if_true, chanAt_setChan_same, chanAt_readClock, hm]

/-- Settles O42: the write of `genAdvance_of_hardwareTone` is one field of the record. -/
theorem hardwareToneIgnoresTheVolume : Obligations.HardwareToneIgnoresTheVolume := by
  refine fun s c => ⟨genAdvance_of_not_playing, fun hp hm => ?_⟩
  rw [genAdvance_of_hardwareTone hp hm]
  refine ⟨rfl, rfl, ⟨_, rfl⟩, fun h => ?_⟩
  rw [readClock_perPass h, chanAt_setChan_same]

theorem dutyThreshold_pos (id p interval : Nat) : 0 < dutyThreshold id p interval := by
  unfold dutyThreshold volMax
  split <;> omega

theorem dutyThreshold_le_255 (id : Nat) {p interval : Nat} (h : p < interval) :
    dutyThreshold id p interval ≤ 255 := by
  simp only [dutyThreshold, if_pos h, volMax]
  omega

/-- Q1 of 44_waveform_generator.md R206. -/
theorem dutyLevel_zero (shape : DutyShape) (level : Bool) (p interval : Nat) :
    dutyLevel shape 0 level p interval = false := by
  cases shape with
  | standard => simp [dutyLevel]
  | other id => simp [dutyLevel, (dutyThreshold_pos id p interval).ne']

/-- Q2 of 44_waveform_generator.md R206. -/
theorem dutyLevel_low (shape : DutyShape) (v : U8) (p interval : Nat) :
    dutyLevel shape v false p interval = false := by
  cases shape <;> rfl

/-- Q3 of 44_waveform_generator.md R206. -/
theorem dutyLevel_full (shape : DutyShape) {p interval : Nat} (h : p < interval) :
    dutyLevel shape 255 true p interval = true := by
  cases shape with
  | standard => simpa [dutyLevel, volMax] using h
  | other id => simpa [dutyLevel] using dutyThreshold_le_255 id h

/-- Q4 of 44_waveform_generator.md R206. -/
theorem dutyLevel_mono (shape : DutyShape) {v w : U8} (h : v.toNat ≤ w.toNat) {level : Bool} {p interval : Nat}
    (hv : dutyLevel shape v level p interval = true) : dutyLevel shape w level p interval = true := by
  cases shape with
  | standard =>
    simp only [dutyLevel, Bool.and_eq_true, decide_eq_true_eq] at hv ⊢
    exact hv.imp_right fun hlt => hlt.trans_le (Nat.mul_le_mul_right _ h)
  | other id =>
    simp only [dutyLevel, Bool.and_eq_true, decide_eq_true_eq] at hv ⊢
    exact hv.imp_right fun hle => hle.trans h

/-- Settles O52: a free shape has Q1 to Q4 by the bounds of its threshold, the default by its formula. -/
theorem dutyShapesHaveTheirProperties : Obligations.DutyShapesHaveTheirProperties :=
  ⟨fun shape v _ level p interval => ⟨dutyLevel_zero shape level p interval, dutyLevel_low shape v p interval,
    dutyLevel_full shape, fun h => dutyLevel_mono shape h⟩, fun _ _ _ _ => rfl⟩

end Sys2Proof.Machine
end

section
/-! The half-period of a frequency in exact arithmetic (44_waveform_generator.md R203, R207): the toggle interval and the
half-periods of a tone are the rounded quotients of the reals. -/

namespace Sys2Proof.Machine

/-- `bitSearch` finds the greatest number that meets a predicate with a bound, within its range. -/
theorem bitSearch_eq {p : Nat → Bool} {m : Nat} (hp : ∀ k, p k = true ↔ k ≤ m) {bits acc : Nat} (hacc : acc ≤ m)
    (hm : m < acc + 2 ^ bits) : bitSearch p bits acc = m := by
  induction bits generalizing acc with
  | zero =>
    rw [pow_zero] at hm
    exact le_antisymm hacc (Nat.lt_succ_iff.mp hm)
  | succ bits ih =>
    rw [pow_succ] at hm
    rw [bitSearch]
    split
    · next h => exact ih ((hp _).mp h) (by omega)
    · next h => exact ih hacc (not_le.mp (mt (hp _).mpr h))

/-- A positive rational is its numerator as a natural number over its denominator. -/
theorem freqReal_hz_eq_div {q : Rat} (h : 0 < freqReal (.hz q)) :
    freqReal (.hz q) = (q.num.toNat : ℝ) / (q.den : ℝ) := by
  have hq : 0 < q := Rat.cast_pos.mp h
  have hnum : ((q.num.toNat : Int) : ℝ) = q.num := by rw [Int.toNat_of_nonneg (Rat.num_pos.mpr hq).le]
  rw [← Int.cast_natCast q.num.toNat, hnum]
  exact Rat.cast_def q

theorem scaledLe_iff_le_floor {f : Freq} (h : 0 < freqReal f) (k m : Nat) :
    scaledLe k f m = true ↔ k ≤ ⌊(m : ℝ) / freqReal f⌋₊ := by
  rw [scaledLe_iff, Nat.le_floor_iff (by positivity), le_div_iff₀ h]

/-- `floorDivFreq` is the rounded quotient of the reals, where that is in the range of its search. -/
theorem floorDivFreq_eq_floor {f : Freq} (h : 0 < freqReal f) {m : Nat} (hm : ⌊(m : ℝ) / freqReal f⌋₊ < 2 ^ 19) :
    floorDivFreq m f = ⌊(m : ℝ) / freqReal f⌋₊ := by
  have hsearch : bitSearch (fun k => scaledLe k f m) 19 0 = ⌊(m : ℝ) / freqReal f⌋₊ :=
    bitSearch_eq (scaledLe_iff_le_floor h · m) (Nat.zero_le _) (by simpa using hm)
  cases f with
  | hz q =>
    rw [freqReal_hz_eq_div h, div_div_eq_mul_div, ← Nat.cast_mul, Nat.floor_div_eq_div]
    rfl
  | note n => exact hsearch
  | free r => exact hsearch

/-- Settles O51: from 20 Hz on the quotient is 25000 at most, so neither the search nor the 32-bit width cuts it. -/
theorem toggleIntervalIsTheHalfPeriod : Obligations.ToggleIntervalIsTheHalfPeriod := by
  intro f hmin _
  have hpos : 0 < freqReal f := by linarith
  have hle : ⌊((halfPeriodNum : Nat) : ℝ) / freqReal f⌋₊ ≤ 25000 := by
    refine Nat.floor_le_of_le ((div_le_iff₀ hpos).mpr ?_)
    norm_num [halfPeriodNum]
    linarith
  have hfloor := floorDivFreq_eq_floor hpos (hle.trans_lt (by norm_num))
  rw [toggleInterval, hfloor, wrap32, BitVec.toNat_ofNat, minToggleUs, Nat.mod_eq_of_lt (by omega)]
  norm_num [halfPeriodNum]

/-- The comparison that `halfPeriods` makes of a note, through twelfth powers. -/
theorem note_halfPeriod_le_iff (n : Int) (k us : Nat) :
    (k * halfPeriodNum) ^ 12 * notePowDown n ≤ (us * a4Hz) ^ 12 * notePowUp n
      ↔ (k : ℝ) * 500000 ≤ us * freqReal (.note n) := by
  have hpow : (((us * a4Hz : ℕ) : ℝ)) ^ 12 * notePowUp n = (us * freqReal (.note n)) ^ 12 * notePowDown n := by
    rw [mul_pow, mul_assoc, freqReal_note_pow n]
    push_cast
    ring
  have hf := freqReal_note_pos n
  rw [← Nat.cast_le (α := ℝ), Nat.cast_mul, Nat.cast_mul, Nat.cast_pow, Nat.cast_pow, hpow,
    mul_le_mul_iff_left₀ (notePowDown_pos n), pow_le_pow_iff_left₀ (by positivity) (by positivity) (by norm_num)]
  norm_num [halfPeriodNum]

/-- A note at most `k` octaves above A4 has at most the frequency of the one there. -/
theorem freqReal_note_le_octaves {n : Int} {k : Nat} (h : n ≤ 12 * k + 69) : freqReal (.note n) ≤ 440 * 2 ^ k := by
  have hn : (n : ℝ) ≤ 12 * k + 69 := by exact_mod_cast h
  have hexp : ((n : ℝ) - 69) / 12 ≤ k := by linarith
  rw [freqReal, ← Real.rpow_natCast]
  gcongr
  norm_num

/-- The half-periods of a note are in the range of the search. -/
theorem note_halfPeriods_lt (n : Int) (us : Nat) :
    ⌊(us : ℝ) * freqReal (.note n) / 500000⌋₊ < 2 ^ (us.log2 + n.toNat / 12 + 2) := by
  have hus : (us : ℝ) < 2 ^ (us.log2 + 1) := by exact_mod_cast Nat.lt_log2_self
  have hf := freqReal_note_pos n
  have hfle : freqReal (.note n) ≤ 440 * 2 ^ (n.toNat / 12 + 1) := freqReal_note_le_octaves (by omega)
  rw [Nat.floor_lt (by positivity), div_lt_iff₀ (by norm_num)]
  calc (us : ℝ) * freqReal (.note n)
      < 2 ^ (us.log2 + 1) * freqReal (.note n) := by gcongr
    _ ≤ 2 ^ (us.log2 + 1) * (500000 * 2 ^ (n.toNat / 12 + 1)) := by gcongr; exact hfle.trans (by gcongr; norm_num)
    _ = ((2 ^ (us.log2 + n.toNat / 12 + 2) : Nat) : ℝ) * 500000 := by push_cast; ring

/-- `halfPeriods` is the rounded quotient of the reals. -/
theorem halfPeriods_eq_floor {f : Freq} (h : 0 < freqReal f) (us : Nat) :
    halfPeriods f us = ⌊(us : ℝ) / (500000 / freqReal f)⌋₊ := by
  rw [div_div_eq_mul_div]
  cases f with
  | hz q =>
    rw [freqReal_hz_eq_div h, ← mul_div_assoc, div_div, mul_comm (q.den : ℝ)]
    exact_mod_cast (Nat.floor_div_eq_div (K := ℝ) (us * q.num.toNat) (500000 * q.den)).symm
  | note n =>
    refine bitSearch_eq (fun k => ?_) (Nat.zero_le _) (by simpa using note_halfPeriods_lt n us)
    rw [decide_eq_true_iff, note_halfPeriod_le_iff, Nat.le_floor_iff (by positivity), le_div_iff₀ (by norm_num)]
  | free r =>
    rw [halfPeriods, (freeCut_is r us).1]
    exact (Nat.floor_div_ofNat _ _).symm

/-- Settles O54: a positive frequency has half-periods, and the model counts them exactly (`halfPeriods_eq_floor`). -/
theorem toneLevelCountsHalfPeriods : Obligations.ToneLevelCountsHalfPeriods := by
  intro f us start h
  rw [toneLevel, if_pos ((isPositive_iff f).mpr h), halfPeriods_eq_floor h]

/-- Where the half-period is a whole number of microseconds, the level counts by division of natural numbers. -/
theorem toneLevel_of_whole_halfPeriod {q : Rat} {half : Nat} (h : (half : Rat) * q = 500000) (start : Bool) (us : Nat) :
    toneLevel start (.hz q) us = (start ^^ decide (us / half % 2 = 1)) := by
  have hq : 0 < q := pos_of_mul_pos_right (by rw [h]; norm_num) half.cast_nonneg
  have hquot : (500000 : ℝ) / freqReal (.hz q) = half := by
    rw [freqReal, div_eq_iff (Rat.cast_ne_zero.mpr hq.ne')]
    exact_mod_cast h.symm
  rw [toneLevelCountsHalfPeriods _ us start (Rat.cast_pos.mpr hq), hquot, Nat.floor_div_eq_div]

/-- Settles O53: no half-period has passed in the first one, and `half` µs later one more has passed. -/
theorem toneWaveAlternatesEveryHalfPeriod : Obligations.ToneWaveAlternatesEveryHalfPeriod := by
  intro q half us start h
  have hhalf : 0 < half := Nat.pos_of_ne_zero (by rintro rfl; norm_num at h)
  simp only [toneLevel_of_whole_halfPeriod h, Nat.add_div_right us hhalf]
  refine ⟨fun hus => by simp [Nat.div_eq_of_lt hus], ?_⟩
  have hflip : decide ((us / half).succ % 2 = 1) = !decide (us / half % 2 = 1) := by
    rw [← decide_not, decide_eq_decide]
    omega
  rw [hflip, Bool.xor_not]

end Sys2Proof.Machine
end

section
/-! The envelope scheduler (45_envelope_scheduler.md R230 to R234). -/

namespace Sys2Proof.Machine

/-- A ramp's value is at most the volume it scales. -/
theorem mul_div_le_of_le (v : Nat) {k n : Nat} (h : k ≤ n) : v * k / n ≤ v :=
  Nat.div_le_of_le_mul ((Nat.mul_le_mul_left v h).trans_eq (Nat.mul_comm v n))

/-- A volume scaled by a fraction of at most one is a volume again: the 8 bits of a ramp cut nothing. -/
theorem toNat_ofNat_mul_div (v : U8) {k n : Nat} (h : k ≤ n) :
    (BitVec.ofNat 8 (v.toNat * k / n)).toNat = v.toNat * k / n := by
  rw [BitVec.toNat_ofNat]
  exact Nat.mod_eq_of_lt ((mul_div_le_of_le v.toNat h).trans_lt v.isLt)

theorem toNat_attackRamp {attackTime e : Nat} (h : e < attackTime) (target : U8) :
    (attackRamp attackTime target e).toNat = target.toNat * e / attackTime :=
  toNat_ofNat_mul_div target h.le

theorem toNat_releaseRamp (releaseTime : Nat) (start : U8) (er : Nat) :
    (releaseRamp releaseTime start er).toNat =
      if releaseTime ≤ er then 0 else start.toNat * (releaseTime - er) / releaseTime := by
  unfold releaseRamp
  split
  · rfl
  · exact toNat_ofNat_mul_div start (Nat.sub_le releaseTime er)

/-- The time since a recorded time as a number: the 32-bit difference is that of the full times modulo 2^32. -/
theorem toNat_nowMs_sub (s : State) (start : U32) :
    ((nowMs s - start).toNat : Int) = (((s.time / 1000 : Nat) : Int) - start.toNat) % 4294967296 := by
  simp only [nowMs, wrap32, BitVec.toNat_sub, BitVec.toNat_ofNat]
  have hstart := start.isLt
  omega

/-- Settles O45: each phase's ramp is the rule's quotient (`toNat_releaseRamp`, `toNat_attackRamp`) of the rule's elapsed
time. -/
theorem envelopeRampsAreLinear : Obligations.EnvelopeRampsAreLinear := by
  intro s c er her
  have hsince : (nowMs s - (chanAt s c).releaseStartTime).toNat = er :=
    Int.ofNat_inj.mp ((toNat_nowMs_sub s _).trans her.symm)
  simp only [envelopeOutput, hsince, toNat_elapsed]
  split
  · exact toNat_releaseRamp _ _ _
  · split
    · next h => exact toNat_attackRamp h _
    · rfl

theorem releaseRamp_le (releaseTime : Nat) (start : U8) (er : Nat) :
    (releaseRamp releaseTime start er).toNat ≤ start.toNat := by
  rw [toNat_releaseRamp]
  split
  · exact Nat.zero_le _
  · exact mul_div_le_of_le _ (Nat.sub_le releaseTime er)

theorem attackRamp_le {attackTime e : Nat} (h : e < attackTime) (target : U8) :
    (attackRamp attackTime target e).toNat ≤ target.toNat :=
  (toNat_attackRamp h target).trans_le (mul_div_le_of_le _ h.le)

/-- Settles O46: the release ramp stays within the volume captured at the release, the other phases within the target. -/
theorem envelopeStaysWithinItsVolumes : Obligations.EnvelopeStaysWithinItsVolumes := by
  intro s c
  unfold envelopeOutput
  split
  · exact le_max_of_le_right (releaseRamp_le _ _ _)
  · refine le_max_of_le_left ?_
    split
    · next h => exact attackRamp_le h _
    · exact le_rfl

end Sys2Proof.Machine
end

section
/-! What the status reporter leaves as it was (46_status_reporter.md R252). -/

namespace Sys2Proof.Machine

/-- Settles O23: STATUS is the reads of the clock for channels 0 and 1 and then one report. A read for a channel keeps
every field in question (the `readForStatus` laws), and a report is appended to the transmit stream only (the `emit`
laws). -/
theorem statusWritesNothingButTheReport : Obligations.StatusWritesNothingButTheReport := by
  intro s
  let s₀ := readForStatus .left s
  let s₁ := readForStatus .right s₀
  refine ⟨emit (.status (chanStatus s₀ .left) (chanStatus s₁ .right)) s₁, chanStatus s₀ .left, chanStatus s₁ .right,
    rfl, ?_⟩
  simp [s₀, s₁]

end Sys2Proof.Machine
end

section
/-! The passes that carry out no command: after an over-long line Dispatch has no step (60_exceptions.md R308), and from
a quiescent state nothing changes (70_reset_and_hazards.md R364). -/

namespace Sys2Proof.Machine

/-- A line over LINE_MAX leaves the stream and sets the mark. -/
theorem commandPhase_of_overlong_line {s : State} {line rest : List Byte} {m : Nat}
    (hrx : s.rx = line ++ Text.lf :: rest) (hline : Text.lf ∉ line) (hmax : s.par.lineMax = some m)
    (hlong : m < line.length) : commandPhase s = .next { s with rx := rest, refused := true } := by
  simp only [commandPhase, hrx, takeLine_of_line hline, hmax, decode_some, if_pos hlong]

theorem dispatchPass_of_refused {s : State} (h : s.refused = true) : dispatchPass s = .refused .lineTooLong := by
  rw [dispatchPass, if_pos h]

/-- Settles O32: the phases leave the stream and LINE_MAX, so the Command phase meets the over-long line; a pass needs
the mark clear. -/
theorem overlongLineEndsDispatch : Obligations.OverlongLineEndsDispatch := by
  refine ⟨fun s s0 line rest m h0 hr hrx hline hmax hlong => ?_, fun s s0 h0 hr => ?_⟩
  · rw [step_eq_commandPhase h0 hr]
    exact commandPhase_of_overlong_line ((phasesBeforeCommand_rx_of_dispatchState h0).trans hrx) hline
      (by rwa [phasesBeforeCommand_par_of_dispatchState h0]) hlong
  · rw [step_of_dispatchState h0]
    exact dispatchPass_of_refused (by rwa [dispatchState_eq h0])

/-- With both channels silent and no sweep, no phase before the command has anything to do. -/
theorem phasesBeforeCommand_of_silent {s : State} (hplay : ∀ c, (chanAt s c).isPlaying = false)
    (hsweep : s.sweepActive = false) : phasesBeforeCommand s = s := by
  have hgen : ∀ c, genAdvance c s = s := fun c => genAdvance_of_not_playing (hplay c)
  have hcheck : ∀ c, transitionCheck c s = s := fun c => transitionCheck_of_not_playing (hplay c)
  have hstep : sweepStep s = s := sweepStep_of_waiting (.inl hsweep)
  simp only [phasesBeforeCommand, hgen, hcheck, hstep]

/-- Settles O37: the phases do nothing, and the Command phase finds no line. -/
theorem quiescentPassChangesNothing : Obligations.QuiescentPassChangesNothing := by
  intro s s0 h0 hr h
  obtain ⟨hleft, hright, hsweep, hrx⟩ : Quiescent s0 := by rwa [dispatchState_eq h0]
  have hphases : phasesBeforeCommand s0 = s0 :=
    phasesBeforeCommand_of_silent (fun c => by cases c <;> assumption) hsweep
  rw [step_eq_commandPhase h0 hr, hphases, commandPhase_of_no_line hrx]

end Sys2Proof.Machine
end

section
/-! The play commands, VOLUME and STOP that their operands make silent (60_exceptions.md R303, R306). -/

namespace Sys2Proof.Machine

theorem not_namesPlayChan {c : Int} (h0 : c ≠ 0) (h1 : c ≠ 1) (k : Chan) : ¬ NamesPlayChan (some c) k := by
  simp [NamesPlayChan, h0, h1]

/-- Settles O10: a channel other than 0 and 1 is named by no play command and is no target. -/
theorem outOfRangeChannelIsSilent : Obligations.OutOfRangeChannelIsSilent := by
  intro s f n d v c h0 h1
  have hplay : ∀ k, ¬ NamesPlayChan (some c) k := not_namesPlayChan h0 h1
  have htargets : targetChans (some c) = none := targetChans_eq_none h0 h1
  refine ⟨?_, ?_, exec_volume_of_no_target htargets v s, exec_stop_of_no_target htargets s⟩
  · exact exec_eq_self_of_not_carriesOut (i := .freq f d (some c) v) trivial (fun k _ ⟨_, _, hk⟩ => hplay k hk) s
  · exact exec_eq_self_of_not_carriesOut (i := .note n d (some c) v) trivial (fun k _ ⟨_, _, hk⟩ => hplay k hk) s

/-- A play command is carried out for the duration that it names. -/
theorem durationField_of_carriesOut {i : Instr} {k : Chan} {d : Int} (h : CarriesOut i k d) :
    durationField i = some d := by
  cases i with
  | freq | note | chord | mono | legacy => exact h.1
  | volume | stop | status | test | unknown | empty => exact h.elim

/-- A play command that is carried out names a positive duration. -/
theorem exec_eq_self_of_nonpositive_duration {i : Instr} (hi : IsPlayCommand i)
    (h : ∀ x, durationField i = some x → x ≤ 0) (s : State) : exec i s = .next s := by
  refine exec_eq_self_of_not_carriesOut hi (fun k x hx => ?_) s
  have hle : x ≤ 0 := h x (durationField_of_carriesOut hx)
  have hpos : 1 ≤ x := one_le_of_carriesOut hx
  omega

/-- Settles O11: the duration of each play command is its duration field. -/
theorem nonPositiveDurationIsSilent : Obligations.NonPositiveDurationIsSilent := fun s f q n n2 c v d hd =>
  ⟨exec_eq_self_of_nonpositive_duration (i := .freq f d c v) trivial hd s,
    exec_eq_self_of_nonpositive_duration (i := .note n d c v) trivial hd s,
    exec_eq_self_of_nonpositive_duration (i := .chord n n2 d) trivial hd s,
    exec_eq_self_of_nonpositive_duration (i := .mono n d) trivial hd s,
    exec_eq_self_of_nonpositive_duration (i := .legacy q d) trivial hd s⟩

end Sys2Proof.Machine
end

section
/-! The steps of the Host and the Clock (70_reset_and_hazards.md R365), the state after reset (R350, R351), and the
first pass after it (R352). -/

namespace Sys2Proof.Machine

/-- The agent at the head of the agenda moves. -/
theorem step_of_agenda {s : State} {m : Move} {rest : List Move} (h : s.agenda = m :: rest) :
    step s = agentStep m { s with agenda := rest } := by
  simp only [step, h]

theorem step_of_send {s : State} {b : Byte} {rest : List Move} (h : s.agenda = .send b :: rest)
    (hroom : s.rx.length < s.par.rxCapacity) : step s = .next { s with agenda := rest, rx := s.rx ++ [b] } := by
  rw [step_of_agenda h]
  exact if_pos hroom

theorem step_of_send_overflow {s : State} {b : Byte} {rest : List Move} (h : s.agenda = .send b :: rest)
    (hfull : s.par.rxCapacity ≤ s.rx.length) : step s = .refused .rxOverflow := by
  rw [step_of_agenda h]
  exact if_neg hfull.not_gt

/-- Settles O33: each step is the move of its agent. -/
theorem hostAndClockStepsChangeOnlyTheirState : Obligations.HostAndClockStepsChangeOnlyTheirState := by
  refine fun s rest b us => ⟨step_of_send, step_of_send_overflow, fun h => ?_, fun h => ?_⟩
  · rw [step_of_agenda h, List.drop_one]
    rfl
  · rw [step_of_agenda h]
    rfl

/-- The Host sends bytes for which there is room, one in each step. -/
theorem stepsFrom_sends {bytes : List Byte} {rest : List Move} {s : State}
    (hagenda : s.agenda = bytes.map .send ++ rest) (hroom : s.rx.length + bytes.length ≤ s.par.rxCapacity) :
    stepsFrom bytes.length s = some { s with rx := s.rx ++ bytes, agenda := rest } := by
  induction bytes generalizing s with
  | nil =>
    obtain rfl : s.agenda = rest := hagenda
    simp
  | cons b bytes ih =>
    rw [List.length_cons] at hroom ⊢
    rw [stepsFrom_next (step_of_send hagenda (by omega)), ih rfl (by simp; omega)]
    simp

/-- Settles O56: each value is the one that the reset state is written with. -/
theorem resetLeavesTheStatedValues : Obligations.ResetLeavesTheStatedValues := by
  refine ⟨fun c => ?_, rfl, rfl, rfl, rfl, rfl, rfl⟩
  cases c with
  | left => exact ⟨rfl, rfl, rfl, rfl, rfl, rfl, rfl, rfl, rfl⟩
  | right => exact ⟨rfl, rfl, rfl, rfl, rfl, rfl, rfl, rfl, rfl⟩

/-- Settles O57: the Host's steps bring the line in (`stepsFrom_sends`); after reset both channels are silent and no
sweep runs, so the phases do nothing, and the Command phase takes the line. -/
theorem commandActsInTheFirstPass : Obligations.CommandActsInTheFirstPass := by
  intro s p line rest i hs hline hroom hi
  have hrx : s.rx = [] := by rw [hs]; rfl
  have hpar : s.par = p := by rw [hs]
  refine ⟨_, ?_, rfl, ?_⟩
  · have hsends := stepsFrom_sends (bytes := line ++ [Text.lf]) (rest := .dispatch :: rest) (s := s) (by simp [hs])
      (by simpa [hrx, hpar] using hroom)
    simpa [hrx] using hsends
  · rw [step_eq_commandPhase rfl (by rw [hs]; rfl),
      phasesBeforeCommand_of_silent (fun c => by rw [hs]; cases c <;> rfl) (by rw [hs]; rfl),
      commandPhase_of_line (rest := []) rfl hline (by rwa [hpar]), ← hrx]

end Sys2Proof.Machine
end
